-- ==== Sys2Proof/Word.lean ====
section
/-! DEFINITION. The plain quantities of the part: bytes, samples, the tick range and the two kinds of slot number. -/

namespace Sys2Proof

/-- One byte of a lane or of a parcel. -/
abbrev Byte := BitVec 8

/-- One 16-bit audio sample, two's complement (R86, R163). -/
abbrev Sample := BitVec 16

/-- A programme slot, 0 to 15 (R10). -/
abbrev ProgSlot := Fin 16

/-- A track slot, 0 to 63 (R23). -/
abbrev TrackSlot := Fin 64

/-- The largest tick value, 2^48 - 1 (R1). A tick is a `Nat`; the rules that form ticks keep them at or below it. -/
def maxTick : Nat := 281474976710655

end Sys2Proof
end

