-- ==== Sys2Proof/Syntax.lean ====
section
/-! DEFINITION. The commands of the part, one constructor for each row of spec/opcode_table.json. A command with operands
carries what comes from outside the part at that step: lane bytes, the strap level, the programme whose drain is judged.
A command without operands acts on the head of a queue or on a block's current entry (log 11). -/

namespace Sys2Proof

/-- The part's steps (spec/95), each whole and indivisible. -/
inductive Instr where
  /-- POWER_ON (R28), with the strap level sampled (R136). -/
  | powerOn (straps : BitVec 4)
  /-- RESET_PIN (R138), with the strap level sampled (R136). -/
  | resetPin (straps : BitVec 4)
  /-- HEADER_ACCEPTED (R127, R128): the lane bytes since the last framing step, up to the last byte of the accepted header. -/
  | headerAccepted (bytes : List Byte)
  /-- HEADER_FAILURE (R128): the nine bytes read in HEADER. -/
  | headerFailure (bytes : List Byte)
  /-- OVERRUN (R130): the body and body check of a parcel with no place. -/
  | overrun (bytes : List Byte)
  /-- TAKEN_WHOLE (R130): the body and body check of a parcel with a reserved place. -/
  | takenWhole (bytes : List Byte)
  /-- ROUTING (R132). -/
  | routing
  /-- EGRESS_CREDIT (R141). -/
  | egressCredit
  /-- EGRESS_CREDIT_RESTART (R141). -/
  | egressCreditRestart
  /-- GRANT (R142). -/
  | grant
  /-- PARCEL_LEFT (R140), with the strap level at the step, sampled where a unit reset takes effect (R136). -/
  | parcelLeft (straps : BitVec 4)
  /-- LOADER_TAKE (R30). -/
  | loaderTake
  /-- PLACE (R43). -/
  | place
  /-- WITHDRAW (R45). -/
  | withdraw
  /-- NARRATION_PAGE (R87). -/
  | narrationPage
  /-- MARK_TAKEN (R53). -/
  | markTaken
  /-- SUBSEG_PLACED (R66). -/
  | subsegPlaced
  /-- AUDIO_TAKE (R98). -/
  | audioTake
  /-- AD_AUDIO_PLACED (R117). -/
  | adAudioPlaced
  /-- EVENT_STEP (R104). -/
  | eventStep
  /-- IDENTIFY (R152). -/
  | identify
  /-- OPEN_PROGRAMME (R12). -/
  | openProgramme
  /-- SET_PROGRAMME (R13). -/
  | setProgramme
  /-- CLOSE_PROGRAMME (R20). -/
  | closeProgramme
  /-- RESET_PROGRAMME (R19). -/
  | resetProgramme
  /-- OPEN_TRACK (R25). -/
  | openTrack
  /-- CLOSE_TRACK (R26). -/
  | closeTrack
  /-- LOAD_STYLE (R48). -/
  | loadStyle
  /-- CONCEAL_SPAN (R75). -/
  | concealSpan
  /-- CONCEAL_UNTIL_RESUME (R77). -/
  | concealUntilResume
  /-- FENCE (R156). -/
  | fence
  /-- FENCE_MARKER_PLACED (R156). -/
  | fenceMarkerPlaced
  /-- READ_PROGRAMME (R153). -/
  | readProgramme
  /-- READ_TRACK (R154). -/
  | readTrack
  /-- READ_COUNTERS (R155). -/
  | readCounters
  /-- SET_EGRESS (R146). -/
  | setEgress
  /-- UNIT_RESET (R159). -/
  | unitReset
  /-- UNKNOWN_REQUEST (R150). -/
  | unknownRequest
  /-- REQUEST_DISCARD (R159). -/
  | requestDiscard
  /-- RESET_PROGRAMME_COMPLETE (R19), of the programme in slot `p`. -/
  | resetProgrammeComplete (p : ProgSlot)
  /-- CLOSE_PROGRAMME_COMPLETE (R20), of the programme in slot `p`. -/
  | closeProgrammeComplete (p : ProgSlot)
  /-- CLOSE_TRACK_COMPLETE (R26), of the track that the programme in slot `p` is closing. -/
  | closeTrackComplete (p : ProgSlot)
  /-- NOTICE_EMISSION (R157). -/
  | noticeEmission
  /-- UNIT_RESET_REPLY (R160). -/
  | unitResetReply
  /-- CUE_RECORD_OTHER_OP (R163). -/
  | cueRecordOtherOp
deriving DecidableEq, Repr

end Sys2Proof
end

