-- ==== Sys2Proof/Decode.lean ====
section
/-! DEFINITION. The rows of spec/opcode_table.json that give bits: there are none, so no word spells a command. -/

namespace Sys2Proof

/-- The command a word spells by the table's bits. Every row of the table has an empty list of fields and no fixed bits. -/
def decodeTableWord (_nbits _w : Nat) : Option Instr := none

end Sys2Proof
end

