-- ==== Sys2Proof/Config.lean ====
section
/-! DEFINITION. What one part fixes: its capacities (00_scope, R152) and the one value the spec leaves open. -/

namespace Sys2Proof.Config

/-- Cue records pooled over the unit (R33). -/
def cueRecords : Nat := 4096
/-- Cue records of one track's list (R37). -/
def cuesPerTrack : Nat := 512
/-- Text line blocks of the unit (R34). -/
def textBlocks : Nat := 8192
/-- Clip records of the unit (R85). -/
def clipRecords : Nat := 512
/-- Narration pages of the unit (R86). -/
def narrationPages : Nat := 16384
/-- Pages one clip may declare (R85). -/
def pagesPerClip : Nat := 3000
/-- Entries of a loaded style table (R48). -/
def styleEntries : Nat := 32
/-- Entries of one SUBSEG (R60). -/
def subsegEntries : Nat := 24
/-- SUB tracks of one programme (R25). -/
def subTracks : Nat := 8
/-- AD tracks of one programme (R25). -/
def adTracks : Nat := 4
/-- Places of the ingress buffer (R130). -/
def ingressBuffer : Nat := 32
/-- Entries of the loader queue (R29). -/
def loaderQueue : Nat := 32
/-- Entries of the mark queue (R52). -/
def markQueue : Nat := 8
/-- Entries of the audio queue (R97). -/
def audioQueue : Nat := 8
/-- Entries of the request queue (R149). -/
def requestQueue : Nat := 4
/-- Cut buffers (R65). -/
def cutBuffers : Nat := 2
/-- Places of the THRU queue (R139). -/
def thruQueue : Nat := 32
/-- Places of the SEG queue (R139). -/
def segQueue : Nat := 16
/-- Places of the MIX queue (R139). -/
def mixQueue : Nat := 32
/-- Places of the CTL queue (R139). -/
def ctlQueue : Nat := 16
/-- CTL places that must be free before a notice is emitted (R157). -/
def noticeRoom : Nat := 5
/-- The pass-over count at which the guard of FIXED acts (R143). -/
def passOverLimit : Nat := 64
/-- The largest body length of an accepted header (R127). -/
def bodyLimit : Nat := 12288

/-- Whether the IDENTIFY reply lists the four egress capacities in the order THRU, SEG, MIX, CTL of R139 or in the order
CTL, MIX, SEG, THRU of R164. R152 names 'the four egress queues' without an order: a free value, no proof sees it (log 15). -/
opaque identifyListsThruFirst : Bool

end Sys2Proof.Config
end

