-- ==== Sys2Proof/Machine/Bytes.lean ====
section
/-! DEFINITION. Byte order and the two checks of chapter 12. Byte order is decided here and nowhere else. -/

namespace Sys2Proof.Machine

/-- The low `n` bytes of `v`, most significant byte first (R162). -/
def be : Nat → Nat → List Byte
  | 0, _ => []
  | n + 1, v => BitVec.ofNat 8 (v >>> (8 * n)) :: be n v

/-- The unsigned value of bytes that stand most significant byte first (R162). -/
def beNat (bs : List Byte) : Nat := bs.foldl (fun acc b => acc * 256 + b.toNat) 0

/-- The unsigned value of the `len` bytes at offset `off`. -/
def fieldAt (bs : List Byte) (off len : Nat) : Nat := beNat ((bs.drop off).take len)

/-- The byte at offset `off`; 0 beyond the end (every caller has tested the length). -/
def byteAt (bs : List Byte) (off : Nat) : Byte := bs.getD off 0

/-- `n` bit steps of the header check's CRC, most significant bit first, polynomial 0x1021 (R162). -/
def crc16Bits : Nat → BitVec 16 → BitVec 16
  | 0, c => c
  | n + 1, c => crc16Bits n (if c.msb then (c <<< (1 : Nat)) ^^^ 0x1021#16 else c <<< (1 : Nat))

/-- The header check: CRC-16, initial value 0xFFFF, not reflected, no final XOR (R162). -/
def crc16 (bs : List Byte) : BitVec 16 :=
  bs.foldl (fun c b => crc16Bits 8 (c ^^^ ((b.setWidth 16 : BitVec 16) <<< (8 : Nat)))) 0xFFFF#16

/-- `n` bit steps of the body check's CRC, least significant bit first; 0xEDB88320 is 0x04C11DB7 reflected (R162). -/
def crc32Bits : Nat → BitVec 32 → BitVec 32
  | 0, c => c
  | n + 1, c => crc32Bits n (if c.getLsbD 0 then (c >>> (1 : Nat)) ^^^ 0xEDB88320#32 else c >>> (1 : Nat))

/-- The body check: reflected CRC-32, initial value and final XOR 0xFFFFFFFF (R162). -/
def crc32 (bs : List Byte) : BitVec 32 :=
  (bs.foldl (fun c b => crc32Bits 8 (c ^^^ (b.setWidth 32 : BitVec 32))) 0xFFFFFFFF#32) ^^^ 0xFFFFFFFF#32

end Sys2Proof.Machine
end

