-- ==== Sys2Proof/Machine/State.lean ====
section
/-! DEFINITION. Everything the spec gives the part to hold, as plain data, and the part right after reset. A FREE programme
or track record is an absent one (log 10); pools are held as what is in use (log 9). -/

namespace Sys2Proof.Machine

/-! ### Parcels -/

/-- An accepted header (R127, R162): the body length is at most 12,288. -/
structure Header where
  kind : Byte
  addr : Byte
  stream : Byte
  length : Nat
  check : BitVec 16
deriving DecidableEq, Repr

/-- A whole parcel: header fields, body, and both checks as it carries them (R162). The body length field is the
body's length. -/
structure Parcel where
  kind : Byte
  addr : Byte
  stream : Byte
  body : List Byte
  headerCheck : BitVec 16
  bodyCheck : BitVec 32
deriving DecidableEq, Repr

/-- The eight result codes (00_scope). -/
inductive ResultCode where
  | done | busy | range | full | late | integrity | absent | halted
deriving DecidableEq, Repr

/-! ### The programme record (R10) -/

/-- The states of a programme that is not FREE (R11). -/
inductive ProgState where
  | active | halted | draining | closing
deriving DecidableEq, Repr

/-- Where a posted failure comes from (R15). -/
inductive FailureOrigin where
  | cueload | narration | segmark | event
deriving DecidableEq, Repr

/-- A posted failure (R15). The track slot is the byte a cue load names, so it may be above 63 (log 26). -/
structure Failure where
  code : ResultCode
  origin : FailureOrigin
  track : Option Nat
  item : Option Nat
  ordinal : BitVec 32
deriving DecidableEq, Repr

/-- The timebase of a programme: rate N/D and origin tick (R3). -/
structure Timebase where
  n : Nat
  d : Nat
  origin : Nat
deriving DecidableEq, Repr

/-- A notice slot (R22): the kinds raised, and the track sets of CONCEAL-DONE and EVENT-MISSED, bit n for track slot n. -/
structure NoticeSlot where
  halted : Bool
  firstError : Bool
  concealDone : Bool
  segmentGap : Bool
  eventMissed : Bool
  concealTracks : BitVec 64
  missedTracks : BitVec 64
deriving DecidableEq, Repr

/-- The eleven programme counters (R21), each 32 bits and saturating. -/
structure ProgCounters where
  cuesAccepted : Nat
  cuesLate : Nat
  cuesTrimmed : Nat
  cuesSkipped : Nat
  segmentsCut : Nat
  entriesOverflowed : Nat
  eventsDone : Nat
  eventsMissed : Nat
  quietParcels : Nat
  marginalParcels : Nat
  clippedSamples : Nat
deriving DecidableEq, Repr

/-- What a programme's deferred request waits for (R151). -/
inductive DeferredKind where
  | closeProgramme
  | resetProgramme
  | closeTrack (t : TrackSlot)
  | fence
deriving DecidableEq, Repr

/-- A deferred request: its kind, its tag and the stream of its CONTROL parcel (R151). Its reserved CTL place is the one
that bears its programme's slot. -/
structure Deferred where
  kind : DeferredKind
  tag : BitVec 16
  stream : Byte
deriving DecidableEq, Repr

/-- A programme record that is not FREE (R10). -/
structure Programme where
  state : ProgState
  stream : Byte
  timebase : Timebase
  threshold : Nat
  escalation : BitVec 8
  cutLine : Nat
  lastSegment : Option Nat
  audioLine : Nat
  quietRun : Nat
  strictRun : Nat
  firstError : Option Failure
  failureCount : Nat
  haltCode : Option ResultCode
  notice : NoticeSlot
  tracks : List TrackSlot
  counters : ProgCounters
  deferred : Option Deferred
deriving DecidableEq, Repr

/-! ### The track record (R23) -/

/-- The states of a track that is not FREE (R24). -/
inductive TrackState where
  | active | concealing | closing
deriving DecidableEq, Repr

inductive Alignment where
  | left | centre | right
deriving DecidableEq, Repr

inductive Anchor where
  | top | bottom
deriving DecidableEq, Repr

inductive Background where
  | none | box | shadow
deriving DecidableEq, Repr

inductive TextSize where
  | small | normal | large
deriving DecidableEq, Repr

/-- A style entry (R47). -/
structure Style where
  alignment : Alignment
  anchor : Anchor
  colour : Nat
  background : Background
  size : TextSize
  italic : Bool
deriving DecidableEq, Repr

/-- A SUB track's style table with its source: the default table, or the entries last loaded (R47). -/
inductive StyleTable where
  | default
  | loaded (entries : List Style)
deriving DecidableEq, Repr

/-- A subtitle cue (R35). Each line is one text block (R34). -/
structure SubCue where
  id : Nat
  start : Nat
  stop : Nat
  region : Nat
  style : Nat
  forced : Bool
  lines : List (List Byte)
  trimmed : Bool
  emitted : Bool
deriving DecidableEq, Repr

inductive ConcealMode where
  | span | untilResume
deriving DecidableEq, Repr

inductive ConcealOutcome where
  | repaired | nothingToRepair
deriving DecidableEq, Repr

/-- A concealment window (R73): start F, end X (absent while unresolved) and mode. -/
structure Window where
  f : Nat
  x : Option Nat
  mode : ConcealMode
deriving DecidableEq, Repr

/-- What a SUB track holds besides the common fields (R23, R47, R73). -/
structure SubTrack where
  styles : StyleTable
  reference : Option TrackSlot
  window : Option Window
  outcome : Option ConcealOutcome
  cues : List SubCue
deriving DecidableEq, Repr

inductive AdCueState where
  | pending | armed
deriving DecidableEq, Repr

/-- A description cue in a list (R36). -/
structure AdCue where
  id : Nat
  earliest : Nat
  latest : Nat
  clip : Nat
  hold : Nat
  strict : Bool
  gn : Option Nat
  gd : Option Nat
  state : AdCueState
deriving DecidableEq, Repr

/-- The current cue of an AD track (R36, R103). -/
structure CurrentCue where
  id : Nat
  clip : Nat
  strict : Bool
  gn : Option Nat
  gd : Option Nat
deriving DecidableEq, Repr

/-- The event engine (R103). The current cue is absent in IDLE and present in the three other states. -/
inductive Engine where
  | idle
  | attack (left : Nat) (cue : CurrentCue)
  | play (page : Nat) (cue : CurrentCue)
  | release (left : Nat) (cue : CurrentCue)
deriving DecidableEq, Repr

/-- What an AD track holds besides the common fields (R23, R103). -/
structure AdTrack where
  gn : Nat
  gd : Nat
  attack : Nat
  release : Nat
  engine : Engine
  gain : Nat
  rampStart : Nat
  rampTarget : Nat
  cues : List AdCue
deriving DecidableEq, Repr

/-- The kind of a track with its kind-specific fields (R23). -/
inductive TrackBody where
  | sub (t : SubTrack)
  | ad (t : AdTrack)
deriving DecidableEq, Repr

/-- A track record that is not FREE (R23). -/
structure Track where
  prog : ProgSlot
  state : TrackState
  stream : Byte
  tag : List Byte
  body : TrackBody
deriving DecidableEq, Repr

/-! ### The clip store (R85) -/

/-- One narration page: 480 samples (R86). -/
abbrev Page := List Sample

/-- A clip record in use (R85): one entry for each page index. FILLING or READY follows from the entries (log 10). -/
structure Clip where
  prog : ProgSlot
  id : Nat
  declared : Nat
  pages : List (Option Page)
  lastValid : Option Nat
deriving DecidableEq, Repr

/-! ### The lane receiver -/

/-- The framing state (R127). HUNT keeps whether a header failure began it and the received bytes still to be searched (log
7); BODY keeps the accepted header and whether a buffer place is reserved for the parcel (R130). -/
inductive Framing where
  | hunt (afterFailure : Bool) (seen : List Byte)
  | header
  | body (h : Header) (reserved : Bool)
deriving DecidableEq, Repr

/-- The five classes of R131. -/
inductive ParcelClass where
  | audio | mark | posted | request | foreign
deriving DecidableEq, Repr

/-- An entry of the ingress buffer (R130): the parcel as it arrived, its ordinal, its class and whether it is corrupt. -/
structure IngressEntry where
  parcel : Parcel
  ordinal : BitVec 32
  cls : ParcelClass
  corrupt : Bool
deriving DecidableEq, Repr

/-- The lane receiver (R127 to R138). -/
structure Receiver where
  closed : Bool
  framing : Framing
  buffer : List IngressEntry
  credit : Nat
  ordinal : BitVec 32
  address : BitVec 4
deriving DecidableEq, Repr

/-- The nine unit counters (R137), each 32 bits and saturating. -/
structure UnitCounters where
  taken : Nat
  passed : Nat
  consumed : Nat
  dropped : Nat
  headerFailures : Nat
  bodyFailures : Nat
  resyncs : Nat
  overruns : Nat
  drainDiscards : Nat
deriving DecidableEq, Repr

/-! ### The cue loader -/

/-- An entry of the loader queue (R29). -/
inductive LoaderEntry where
  | cueload (parcel : Parcel) (ordinal : BitVec 32)
  | narration (parcel : Parcel) (ordinal : BitVec 32)
  | fence (prog : ProgSlot) (tag : BitVec 16)
deriving DecidableEq, Repr

/-- A CUELOAD being applied: its programme, the track slot byte it names, its ordinal and the records not yet reached (R32). -/
structure CueLoading where
  prog : ProgSlot
  track : Nat
  ordinal : BitVec 32
  records : List (List Byte)
deriving DecidableEq, Repr

/-- The loader's current entry (R30, R32, R87). -/
inductive Loading where
  | cueload (c : CueLoading)
  | narration (parcel : Parcel) (ordinal : BitVec 32)
deriving DecidableEq, Repr

/-! ### The segment cutter -/

/-- An entry of the mark queue (R52); S and E are carried in 64 bits. -/
structure Mark where
  k : Nat
  s : Nat
  e : Nat
  prog : ProgSlot
  stream : Byte
  ordinal : BitVec 32
deriving DecidableEq, Repr

/-- The flags of a SUBSEG entry (R61). -/
structure EntryFlags where
  contIn : Bool
  contOut : Bool
  trimmed : Bool
  forced : Bool
  concealed : Bool
  styleDefaulted : Bool
deriving DecidableEq, Repr

/-- A SUBSEG entry (R62). -/
structure Entry where
  id : Nat
  relStart : Nat
  relEnd : Nat
  region : Nat
  style : Style
  flags : EntryFlags
  lines : List (List Byte)
deriving DecidableEq, Repr

/-- One track's part of a cut, fixed at the take (R62, R67). -/
structure SubSeg where
  track : TrackSlot
  stream : Byte
  tag : List Byte
  k : Nat
  start : Nat
  length : Nat
  styleLoaded : Bool
  concealedGap : Bool
  overflow : Bool
  entries : List Entry
deriving DecidableEq, Repr

/-- A filled cut buffer: the SUBSEGs of one take not yet placed (R65). -/
structure Cut where
  prog : ProgSlot
  subsegs : List SubSeg
deriving DecidableEq, Repr

/-! ### The audio path -/

/-- An entry of the audio queue (R97): the body as it arrived, which holds the start tick and the frames. -/
structure AudioCopy where
  body : List Byte
  prog : ProgSlot
  stream : Byte
  ordinal : BitVec 32
  substituted : Bool
deriving DecidableEq, Repr

/-- The current parcel of the audio path (R98, R99): the copy, its parcel tick, the programme's state at the taking, the
tracks it serves, those not yet rendered and not yet stepped, a rendered parcel that waits for the MIX queue (R117), and
whether a programme drain waits for it (R18, log 23). -/
structure AudioWork where
  copy : AudioCopy
  tick : Nat
  takenIn : ProgState
  served : List TrackSlot
  toRender : List TrackSlot
  toStep : List TrackSlot
  rendered : Option Parcel
  inFlight : Bool
deriving DecidableEq, Repr

/-! ### The control unit -/

/-- An entry of the request queue (R149). -/
structure Request where
  tag : BitVec 16
  name : Byte
  params : List Byte
  prog : ProgSlot
  stream : Byte
  ordinal : BitVec 32
deriving DecidableEq, Repr

/-- An outstanding UNIT-RESET (R159), and whether its reply has been placed (R160). -/
structure UnitReset where
  tag : BitVec 16
  stream : Byte
  prog : ProgSlot
  placed : Bool
deriving DecidableEq, Repr

/-! ### The egress arbiter -/

/-- The four requesters (R139). -/
inductive Requester where
  | ctl | mix | seg | thru
deriving DecidableEq, Repr

inductive Policy where
  | fixed | rotate
deriving DecidableEq, Repr

/-- A grant mode (R142). -/
inductive GrantMode where
  | single
  | batch (n : Nat)
deriving DecidableEq, Repr

/-- One value for each requester. -/
structure PerRequester (α : Type) where
  ctl : α
  mix : α
  seg : α
  thru : α
deriving DecidableEq, Repr

/-- The arbiter's settings (R146). -/
structure EgressSettings where
  policy : Policy
  modes : PerRequester GrantMode
deriving DecidableEq, Repr

/-- A place of the CTL queue that is not empty (R139): reserved for the deferred request of a programme or of the unit, or
filled. The UNIT-RESET reply is kept apart, since its leaving makes the unit reset take effect (R160). -/
inductive CtlPlace where
  | reserved (prog : ProgSlot)
  | reservedForUnit
  | filled (parcel : Parcel)
  | unitResetReply (parcel : Parcel)
deriving DecidableEq, Repr

/-- The grant in force (R142): under it the head parcel of the requester's queue is being sent. -/
structure Grant where
  requester : Requester
  allowance : Nat
  sent : Nat
deriving DecidableEq, Repr

/-- The egress arbiter (R139 to R148). -/
structure Egress where
  thru : List Parcel
  seg : List Parcel
  mix : List Parcel
  ctl : List CtlPlace
  grant : Option Grant
  credit : Nat
  settings : EgressSettings
  pendingSettings : Option EgressSettings
  passOver : PerRequester Nat
  last : Requester
deriving DecidableEq, Repr

/-! ### The lanes as the outside sees them (log 5) -/

/-- A parcel on the egress lane: sent whole, or cut off by the reset pin at a byte the spec does not give (R140). -/
inductive Sent where
  | whole (parcel : Parcel)
  | cutOff (parcel : Parcel)
deriving DecidableEq, Repr

/-- A signal on the ingress credit return (R129): one credit, or a restart followed at once by its grant. -/
inductive CreditSignal where
  | credit
  | restart (granted : Nat)
deriving DecidableEq, Repr

/-- What has gone out of the part, oldest first: the model's own record. No reset clears it. -/
structure Lanes where
  left : List Sent
  returned : List CreditSignal
deriving DecidableEq, Repr

/-! ### The whole part -/

/-- The state of the part, with the queue of commands that are waiting. -/
structure State where
  rx : Receiver
  counters : UnitCounters
  progs : Vector (Option Programme) 16
  tracks : Vector (Option Track) 64
  clips : List Clip
  loaderQ : List LoaderEntry
  loading : Option Loading
  markQ : List Mark
  cuts : List Cut
  audioQ : List AudioCopy
  audio : Option AudioWork
  requestQ : List Request
  fenceWaiting : Option ProgSlot
  unitReset : Option UnitReset
  egress : Egress
  lanes : Lanes
  pending : List Instr
deriving DecidableEq, Repr

/-- No command of the part stops it with a fault: the spec describes none (log 27). -/
inductive Fault where
deriving DecidableEq, Repr

/-- Why a command is refused. -/
inductive Refusal where
  /-- Raised by an arm of `exec` whose row has no meaning yet; safe. No arm raises it. -/
  | notModelled (mnemonic : String)
deriving DecidableEq, Repr

/-- The answer of a step. -/
abbrev Outcome := Host.Outcome State Fault Refusal

/-! ### Reset values -/

def NoticeSlot.empty : NoticeSlot := ⟨false, false, false, false, false, 0, 0⟩

def ProgCounters.zero : ProgCounters := ⟨0, 0, 0, 0, 0, 0, 0, 0, 0, 0, 0⟩

def UnitCounters.zero : UnitCounters := ⟨0, 0, 0, 0, 0, 0, 0, 0, 0⟩

/-- The receiver after a reset that samples the strap level `straps` (R138). -/
def Receiver.reset (straps : BitVec 4) : Receiver where
  closed := false
  framing := .hunt false []
  buffer := []
  credit := 32
  ordinal := 0
  address := straps

/-- The default settings (R146). -/
def EgressSettings.default : EgressSettings where
  policy := .rotate
  modes := ⟨.single, .single, .single, .single⟩

/-- The arbiter after a reset (R139, R141, R143, R144, R146). -/
def Egress.reset : Egress where
  thru := []
  seg := []
  mix := []
  ctl := []
  grant := none
  credit := 0
  settings := .default
  pendingSettings := none
  passOver := ⟨0, 0, 0, 0⟩
  last := .thru

/-- The part after a reset that samples `straps` (R10, R23, R28, R33, R34, R50, R71, R96, R115, R138, R148, R161): what has
gone out before stands, with the credit restart of R129 added, and the waiting commands stand. -/
def State.afterReset (straps : BitVec 4) (lanes : Lanes) (pending : List Instr) : State where
  rx := .reset straps
  counters := .zero
  progs := Vector.replicate 16 none
  tracks := Vector.replicate 64 none
  clips := []
  loaderQ := []
  loading := none
  markQ := []
  cuts := []
  audioQ := []
  audio := none
  requestQ := []
  fenceWaiting := none
  unitReset := none
  egress := .reset
  lanes := { lanes with returned := lanes.returned ++ [.restart 32] }
  pending := pending

/-- The part right after its first power-on. The strap level is the board's; 0 here (DESIGN CHOICE, log 4). -/
def State.reset : State := .afterReset 0 ⟨[], []⟩ []

end Sys2Proof.Machine
end

