-- ==== Sys2Proof/Machine/Flags.lean ====
section
/-! DEFINITION. The numbers that stand for names and the bits of the flag bytes (R163, R164). -/

namespace Sys2Proof.Machine

def ResultCode.number : ResultCode → Nat
  | .done => 0
  | .busy => 1
  | .range => 2
  | .full => 3
  | .late => 4
  | .integrity => 5
  | .absent => 6
  | .halted => 7

def ProgState.number : ProgState → Nat
  | .active => 1
  | .halted => 2
  | .draining => 3
  | .closing => 4

def TrackState.number : TrackState → Nat
  | .active => 1
  | .concealing => 2
  | .closing => 3

/-- Track kind: SUB 1, AD 2. -/
def TrackBody.kindNumber : TrackBody → Nat
  | .sub _ => 1
  | .ad _ => 2

/-- Style source: DEFAULT 0, LOADED 1. -/
def StyleTable.sourceNumber : StyleTable → Nat
  | .default => 0
  | .loaded _ => 1

def ConcealMode.number : ConcealMode → Nat
  | .span => 0
  | .untilResume => 1

def ConcealOutcome.number : ConcealOutcome → Nat
  | .repaired => 0
  | .nothingToRepair => 1

def AdCueState.number : AdCueState → Nat
  | .pending => 0
  | .armed => 1

def Policy.number : Policy → Nat
  | .fixed => 0
  | .rotate => 1

def Requester.number : Requester → Nat
  | .ctl => 0
  | .mix => 1
  | .seg => 2
  | .thru => 3

def FailureOrigin.number : FailureOrigin → Nat
  | .cueload => 0
  | .narration => 1
  | .segmark => 2
  | .event => 3

/-- Engine state: IDLE 0, ATTACK 1, PLAY 2, RELEASE 3. -/
def Engine.number : Engine → Nat
  | .idle => 0
  | .attack _ _ => 1
  | .play _ _ => 2
  | .release _ _ => 3

def Alignment.number : Alignment → Nat
  | .left => 0
  | .centre => 1
  | .right => 2

def Anchor.number : Anchor → Nat
  | .top => 0
  | .bottom => 1

def Background.number : Background → Nat
  | .none => 0
  | .box => 1
  | .shadow => 2

def TextSize.number : TextSize → Nat
  | .small => 0
  | .normal => 1
  | .large => 2

/-- A byte whose bit n is the n-th flag of the list; unused bits are 0 (R162). -/
def flagByte : List Bool → Nat
  | [] => 0
  | b :: bs => b.toNat + 2 * flagByte bs

/-- Bits 0 to 5: CONT-IN, CONT-OUT, TRIMMED, FORCED, CONCEALED, STYLE-DEFAULTED (R164). -/
def EntryFlags.number (f : EntryFlags) : Nat :=
  flagByte [f.contIn, f.contOut, f.trimmed, f.forced, f.concealed, f.styleDefaulted]

/-- Bits 0 to 2: STYLE-SOURCE, CONCEALED-GAP, OVERFLOW (R164). -/
def SubSeg.flagsNumber (u : SubSeg) : Nat := flagByte [u.styleLoaded, u.concealedGap, u.overflow]

/-- Bits 0 to 4: HALTED, FIRST-ERROR, CONCEAL-DONE, SEGMENT-GAP, EVENT-MISSED (R164). -/
def NoticeSlot.kindsNumber (n : NoticeSlot) : Nat :=
  flagByte [n.halted, n.firstError, n.concealDone, n.segmentGap, n.eventMissed]

/-- The track set that holds the one slot `t`: bit n stands for track slot n (R164). -/
def trackBit (t : TrackSlot) : BitVec 64 := 1#64 <<< t.val

/-- Whether an escalation set holds a code: bit n stands for result code n (R163). -/
def escalates (escalation : BitVec 8) (code : ResultCode) : Bool := escalation.getLsbD code.number

/-- Whether an escalation set names only RANGE, FULL, LATE, INTEGRITY and ABSENT: bits 0, 1 and 7 are clear (R12, R163). -/
def escalationAllowed (escalation : BitVec 8) : Bool :=
  !escalation.getLsbD 0 && !escalation.getLsbD 1 && !escalation.getLsbD 7

end Sys2Proof.Machine
end

