-- ==== Sys2Proof/Machine/Operands.lean ====
section
/-! DEFINITION. Reading what arrives: headers, parcel bodies, cue records, request parameters (R127, R131, R163). -/

namespace Sys2Proof.Machine

/-! ### Headers and parcels -/

/-- A parcel's header as the seven checked bytes (R162). -/
def headerBytes (kind addr stream : Byte) (length : Nat) : List Byte :=
  [0xB7, 0x4E, kind, addr, stream] ++ be 2 length

/-- The three tests by which 9 bytes are accepted as a header (R127). -/
def headerAccepts (bs : List Byte) : Bool :=
  bs.length == 9 && bs.take 2 == [0xB7, 0x4E] && (crc16 (bs.take 7)).toNat == fieldAt bs 7 2
    && fieldAt bs 5 2 ≤ Config.bodyLimit

/-- The header that 9 accepted bytes carry (R162). -/
def headerOf (bs : List Byte) : Header where
  kind := byteAt bs 2
  addr := byteAt bs 3
  stream := byteAt bs 4
  length := fieldAt bs 5 2
  check := BitVec.ofNat 16 (fieldAt bs 7 2)

/-- The first candidate of a hunt that is accepted, with the bytes after it. A candidate begins where the sync pair begins,
and one that fails is searched from the byte after its first (R128). -/
def huntFor : List Byte → Option (List Byte × List Byte)
  | [] => none
  | b :: bs =>
    if headerAccepts ((b :: bs).take 9) then some ((b :: bs).take 9, (b :: bs).drop 9)
    else huntFor bs

/-- The header with which the bytes received end, by the framing state: in HEADER exactly nine accepted bytes, in HUNT the
first accepted candidate. -/
def acceptedHeader (f : Framing) (bytes : List Byte) : Option Header :=
  match f with
  | .header => if headerAccepts bytes then some (headerOf bytes) else none
  | .hunt _ seen =>
    match huntFor (seen ++ bytes) with
    | some (h, []) => some (headerOf h)
    | _ => none
  | .body _ _ => none

/-- The parcel that a header, a body and a body check make. -/
def parcelOf (h : Header) (bytes : List Byte) : Parcel where
  kind := h.kind
  addr := h.addr
  stream := h.stream
  body := bytes.take h.length
  headerCheck := h.check
  bodyCheck := BitVec.ofNat 32 (beNat (bytes.drop h.length))

/-- The programme slot of an address byte: its low nibble (R162). -/
def Parcel.slot (p : Parcel) : ProgSlot := Fin.ofNat 16 p.addr.toNat

/-- The unit address of an address byte: its high nibble (R162). -/
def Parcel.unit (p : Parcel) : BitVec 4 := p.addr.extractLsb' 4 4

/-- The parcel as it stands on a lane, byte for byte (R162). -/
def Parcel.bytes (p : Parcel) : List Byte :=
  headerBytes p.kind p.addr p.stream p.body.length ++ be 2 p.headerCheck.toNat ++ p.body ++ be 4 p.bodyCheck.toNat

/-! ### Classes and soundness (R131) -/

/-- Kind values (R162). -/
def kindProgAudio : Byte := 1
def kindSegmark : Byte := 2
def kindCueload : Byte := 3
def kindNarration : Byte := 4
def kindControl : Byte := 5
def kindSubseg : Byte := 6
def kindAdAudio : Byte := 7
def kindReply : Byte := 8
def kindNotice : Byte := 9

/-- The class of a parcel taken by the unit with address `address` (R131). -/
def classOf (address : BitVec 4) (p : Parcel) : ParcelClass :=
  if p.kind == kindProgAudio then .audio
  else if p.kind == kindSegmark then .mark
  else if p.unit == address then
    if p.kind == kindCueload || p.kind == kindNarration then .posted
    else if p.kind == kindControl then .request
    else .foreign
  else .foreign

/-- The records of a CUELOAD body, walked by their record lengths, when the walk ends exactly at the end (R163). -/
def walkRecords : Nat → List Byte → Option (List (List Byte))
  | 0, bs => if bs.isEmpty then some [] else none
  | n + 1, bs =>
    if 2 ≤ bs.length && 8 ≤ fieldAt bs 0 2 && fieldAt bs 0 2 ≤ bs.length then
      (walkRecords n (bs.drop (fieldAt bs 0 2))).map (bs.take (fieldAt bs 0 2) :: ·)
    else none

/-- The records a CUELOAD body states, if its length is sound (R163). -/
def cueloadRecords (body : List Byte) : Option (List (List Byte)) :=
  if 2 ≤ body.length then walkRecords (byteAt body 1).toNat (body.drop 2) else none

/-- Whether a body has the length its kind calls for (R131, R163). -/
def lengthSound (p : Parcel) : Bool :=
  if p.kind == kindProgAudio then p.body.length == 1928
  else if p.kind == kindSegmark then p.body.length == 20
  else if p.kind == kindNarration then p.body.length == 970
  else if p.kind == kindCueload then (cueloadRecords p.body).isSome
  else if p.kind == kindControl then 5 ≤ p.body.length && p.body.length == 5 + fieldAt p.body 3 2
  else true

/-- Whether a parcel of class `c` is corrupt: a FOREIGN parcel is not judged (R131). -/
def corruptIn (c : ParcelClass) (p : Parcel) : Bool :=
  c != .foreign && !(crc32 p.body == p.bodyCheck && lengthSound p)

/-! ### Copies and requests -/

/-- The mark entry of a SEGMARK (R52, R163). -/
def markOf (p : Parcel) (slot : ProgSlot) (ordinal : BitVec 32) : Mark where
  k := fieldAt p.body 0 4
  s := fieldAt p.body 4 8
  e := fieldAt p.body 12 8
  prog := slot
  stream := p.stream
  ordinal := ordinal

/-- The request of a CONTROL parcel (R149, R163). -/
def requestOf (p : Parcel) (ordinal : BitVec 32) : Request where
  tag := BitVec.ofNat 16 (fieldAt p.body 0 2)
  name := byteAt p.body 2
  params := p.body.drop 5
  prog := p.slot
  stream := p.stream
  ordinal := ordinal

/-- The samples that stand in bytes, two bytes each (R163). -/
def samplesOf : List Byte → List Sample
  | hi :: lo :: rest => (hi ++ lo) :: samplesOf rest
  | _ => []

/-- The start tick a PROG-AUDIO body carries (R163). -/
def AudioCopy.carriedTick (c : AudioCopy) : Nat := fieldAt c.body 0 8

/-- The 960 samples of a PROG-AUDIO body, left and right in turn (R163). -/
def AudioCopy.samples (c : AudioCopy) : List Sample := samplesOf (c.body.drop 8)

/-! ### Narration pages (R163) -/

/-- One NARRATION page. -/
structure PageLoad where
  clip : Nat
  index : Nat
  declared : Nat
  valid : Nat
  samples : Page
deriving DecidableEq, Repr

def pageOf (body : List Byte) : PageLoad where
  clip := fieldAt body 0 4
  index := fieldAt body 4 2
  declared := fieldAt body 6 2
  valid := fieldAt body 8 2
  samples := samplesOf (body.drop 10)

/-! ### Cue records (R38, R163) -/

def recordOp (r : List Byte) : Nat := (byteAt r 2).toNat
def recordKind (r : List Byte) : Nat := (byteAt r 3).toNat
def recordId (r : List Byte) : Nat := fieldAt r 4 4

/-- The lines that stand in bytes, each a length byte and that many bytes, when exactly `n` lines fill them (R163). -/
def linesOf : Nat → List Byte → Option (List (List Byte))
  | 0, bs => if bs.isEmpty then some [] else none
  | _ + 1, [] => none
  | n + 1, l :: bs =>
    if l.toNat ≤ bs.length then (linesOf n (bs.drop l.toNat)).map (bs.take l.toNat :: ·) else none

/-- The fields of a subtitle PLACE record. -/
structure SubPlace where
  id : Nat
  startUnit : Nat
  endUnit : Nat
  region : Nat
  style : Nat
  forced : Bool
  lines : List (List Byte)
deriving DecidableEq, Repr

/-- A subtitle PLACE record that passes the fourth test of R38, its record length included (R163). -/
def subPlaceOf (r : List Byte) : Option SubPlace :=
  if r.length < 20 then none
  else
    match linesOf (byteAt r 19).toNat (r.drop 20) with
    | none => none
    | some lines =>
      if (byteAt r 16).toNat ≤ 15 && (byteAt r 17).toNat ≤ 31 && 1 ≤ lines.length && lines.length ≤ 4
          && lines.all (fun l => 1 ≤ l.length && l.length ≤ 96) then
        some {
          id := recordId r
          startUnit := fieldAt r 8 4
          endUnit := fieldAt r 12 4
          region := (byteAt r 16).toNat
          style := (byteAt r 17).toNat
          forced := (byteAt r 18).getLsbD 0
          lines := lines }
      else none

/-- The fields of a description PLACE record. -/
structure AdPlace where
  id : Nat
  earliestUnit : Nat
  latestUnit : Nat
  clip : Nat
  hold : Nat
  strict : Bool
  gn : Option Nat
  gd : Option Nat
deriving DecidableEq, Repr

/-- A gain override: absent unless its flag bit is set, stored at most as 32,768 (R36). -/
def overrideOf (present : Bool) (v : Nat) : Option Nat := if present then some (min v 32768) else none

/-- A description PLACE record that passes the fourth test of R38, its record length included (R163). -/
def adPlaceOf (r : List Byte) : Option AdPlace :=
  if r.length == 26 && fieldAt r 16 4 != 0 && (byteAt r 20).toNat != 0 && (byteAt r 20).toNat ≤ 64
      && fieldAt r 8 4 ≤ fieldAt r 12 4 then
    some {
      id := recordId r
      earliestUnit := fieldAt r 8 4
      latestUnit := fieldAt r 12 4
      clip := fieldAt r 16 4
      hold := (byteAt r 20).toNat
      strict := (byteAt r 21).getLsbD 0
      gn := overrideOf ((byteAt r 21).getLsbD 1) (fieldAt r 22 2)
      gd := overrideOf ((byteAt r 21).getLsbD 2) (fieldAt r 24 2) }
  else none

/-! ### Request parameters (R163) -/

/-- OPEN-PROGRAMME's parameters. -/
structure OpenParams where
  stream : Byte
  timebase : Timebase
  threshold : Nat
  escalation : BitVec 8
deriving DecidableEq, Repr

def openParamsOf (ps : List Byte) : OpenParams where
  stream := byteAt ps 0
  timebase := ⟨fieldAt ps 1 4, fieldAt ps 5 2, fieldAt ps 7 8⟩
  threshold := fieldAt ps 15 2
  escalation := byteAt ps 17

/-- The second test of R12, passed. -/
def OpenParams.inRange (o : OpenParams) : Bool :=
  1 ≤ o.timebase.n && o.timebase.n ≤ 240000 && 1 ≤ o.timebase.d && o.timebase.d ≤ 65535 && o.timebase.origin ≤ maxTick
    && o.threshold ≤ 32767 && escalationAllowed o.escalation

/-- OPEN-TRACK's parameters by the kind it opens; the fields of the other kind are not read (R163, log 19). -/
inductive TrackParams where
  | sub (stream : Byte) (tag : List Byte) (reference : Option Nat)
  | ad (stream : Byte) (tag : List Byte) (gn gd attack release : Nat)
deriving DecidableEq, Repr

/-- OPEN-TRACK's parameters when they pass the first test of R25. -/
def trackParamsOf (ps : List Byte) : Option TrackParams :=
  let n := (byteAt ps 2).toNat
  let tag := (ps.drop 3).take n
  if !(1 ≤ n && n ≤ 8 && tag.all (fun b => 0x20 ≤ b.toNat && b.toNat ≤ 0x7E)) then none
  else if byteAt ps 0 == 1 then
    if byteAt ps 11 == 0 then some (.sub (byteAt ps 1) tag none)
    else if byteAt ps 11 == 1 then some (.sub (byteAt ps 1) tag (some (byteAt ps 12).toNat))
    else none
  else if byteAt ps 0 == 2 then
    if fieldAt ps 13 2 ≤ 32768 && fieldAt ps 15 2 ≤ 32768 && (byteAt ps 17).toNat ≤ 50 && (byteAt ps 18).toNat ≤ 50 then
      some (.ad (byteAt ps 1) tag (fieldAt ps 13 2) (fieldAt ps 15 2) (byteAt ps 17).toNat (byteAt ps 18).toNat)
    else none
  else none

def TrackParams.stream : TrackParams → Byte
  | .sub s _ _ => s
  | .ad s _ _ _ _ _ => s

def alignmentOf (b : Byte) : Option Alignment :=
  if b == 0 then some .left else if b == 1 then some .centre else if b == 2 then some .right else none

def anchorOf (b : Byte) : Option Anchor :=
  if b == 0 then some .top else if b == 1 then some .bottom else none

def backgroundOf (b : Byte) : Option Background :=
  if b == 0 then some .none else if b == 1 then some .box else if b == 2 then some .shadow else none

def textSizeOf (b : Byte) : Option TextSize :=
  if b == 0 then some .small else if b == 1 then some .normal else if b == 2 then some .large else none

def italicOf (b : Byte) : Option Bool :=
  if b == 0 then some false else if b == 1 then some true else none

/-- A style entry of six bytes; a value outside its field's values makes it none (R163). -/
def styleOf (bs : List Byte) : Option Style :=
  match alignmentOf (byteAt bs 0), anchorOf (byteAt bs 1), backgroundOf (byteAt bs 3), textSizeOf (byteAt bs 4),
      italicOf (byteAt bs 5) with
  | some al, some an, some bg, some sz, some it =>
    if (byteAt bs 2).toNat ≤ 15 then some ⟨al, an, (byteAt bs 2).toNat, bg, sz, it⟩ else none
  | _, _, _, _, _ => none

/-- `n` style entries of six bytes each. -/
def stylesOf : Nat → List Byte → Option (List Style)
  | 0, _ => some []
  | n + 1, bs =>
    match styleOf (bs.take 6), stylesOf n (bs.drop 6) with
    | some x, some xs => some (x :: xs)
    | _, _ => none

/-- A grant mode and its n byte; the n of SINGLE is not read (R146, R163). -/
def grantModeOf (mode n : Byte) : Option GrantMode :=
  if mode == 0 then some .single
  else if mode == 1 && 1 ≤ n.toNat && n.toNat ≤ 8 then some (.batch n.toNat)
  else none

/-- SET-EGRESS's parameters when every value is allowed (R146). -/
def egressSettingsOf (ps : List Byte) : Option EgressSettings :=
  let policy := if byteAt ps 0 == 0 then some Policy.fixed else if byteAt ps 0 == 1 then some Policy.rotate else none
  match policy, grantModeOf (byteAt ps 1) (byteAt ps 2), grantModeOf (byteAt ps 3) (byteAt ps 4),
      grantModeOf (byteAt ps 5) (byteAt ps 6), grantModeOf (byteAt ps 7) (byteAt ps 8) with
  | some p, some c, some m, some g, some t => some ⟨p, ⟨c, m, g, t⟩⟩
  | _, _, _, _, _ => none

end Sys2Proof.Machine
end

