-- ==== Sys2Proof/Machine/Ops.lean ====
section
/-! DEFINITION. The shared operations: access to the tables, counters, posted failures (R15), notices (R22), the ordered lists
(R37), the pools (R33, R34, R85, R86), clip references and freeing (R93, R94), the CTL places and replies (R139, R151). -/

namespace Sys2Proof.Machine

/-! ### Counting and ordering -/

/-- A counter that stops at its largest value (00_scope, Counters). -/
def satAdd (cap a n : Nat) : Nat := min cap (a + n)

/-- A 32-bit saturating counter increased by `n`. -/
def bump32 (a n : Nat) : Nat := satAdd 4294967295 a n

/-- Insert into an ordered list: `x` stands before the first member it precedes. -/
def insertBy {α : Type} (before : α → α → Bool) (x : α) : List α → List α
  | [] => [x]
  | y :: ys => if before x y then x :: y :: ys else y :: insertBy before x ys

/-- The members of a list in order. -/
def sortBy {α : Type} (before : α → α → Bool) (xs : List α) : List α := xs.foldr (insertBy before) []

/-! ### The two tables -/

/-- The record of a programme slot; none is FREE (R10). -/
def State.prog (s : State) (p : ProgSlot) : Option Programme := s.progs[p.val]

/-- The record of a track slot; none is FREE (R23). -/
def State.track (s : State) (t : TrackSlot) : Option Track := s.tracks[t.val]

def State.setProg (s : State) (p : ProgSlot) (r : Option Programme) : State :=
  { s with progs := s.progs.set p.val r }

def State.setTrack (s : State) (t : TrackSlot) (r : Option Track) : State :=
  { s with tracks := s.tracks.set t.val r }

/-- Change the record of a programme that is not FREE. -/
def State.modProg (s : State) (p : ProgSlot) (f : Programme → Programme) : State := s.setProg p ((s.prog p).map f)

/-- Change the record of a track that is not FREE. -/
def State.modTrack (s : State) (t : TrackSlot) (f : Track → Track) : State := s.setTrack t ((s.track t).map f)

/-- The kind-specific fields of a SUB track. -/
def Track.sub? (r : Track) : Option SubTrack :=
  match r.body with
  | .sub b => some b
  | .ad _ => none

/-- The kind-specific fields of an AD track. -/
def Track.ad? (r : Track) : Option AdTrack :=
  match r.body with
  | .sub _ => none
  | .ad b => some b

/-- Change the kind-specific fields of a SUB track; an AD track stays. -/
def Track.modSub (r : Track) (f : SubTrack → SubTrack) : Track :=
  match r.body with
  | .sub b => { r with body := .sub (f b) }
  | .ad _ => r

/-- Change the kind-specific fields of an AD track; a SUB track stays. -/
def Track.modAd (r : Track) (f : AdTrack → AdTrack) : Track :=
  match r.body with
  | .sub _ => r
  | .ad b => { r with body := .ad (f b) }

/-- The SUB track in a slot, if the slot holds one. -/
def State.sub? (s : State) (t : TrackSlot) : Option SubTrack := (s.track t).bind Track.sub?

/-- The AD track in a slot, if the slot holds one. -/
def State.ad? (s : State) (t : TrackSlot) : Option AdTrack := (s.track t).bind Track.ad?

def State.modSub (s : State) (t : TrackSlot) (f : SubTrack → SubTrack) : State := s.modTrack t (·.modSub f)

def State.modAd (s : State) (t : TrackSlot) (f : AdTrack → AdTrack) : State := s.modTrack t (·.modAd f)

/-- All programme slots, lowest first. -/
def progSlots : List ProgSlot := List.finRange 16

/-- All track slots, lowest first. -/
def trackSlots : List TrackSlot := List.finRange 64

/-- The track slot a byte names, if it is at most 63. -/
def trackSlotOf (n : Nat) : Option TrackSlot := if h : n < 64 then some ⟨n, h⟩ else none

/-- The track of programme `p` that a byte names, with its slot; none when the slot is above 63, FREE or bound to another
programme (R26, R38, R48, R74, R154). -/
def State.trackOf (s : State) (p : ProgSlot) (n : Nat) : Option (TrackSlot × Track) :=
  match trackSlotOf n with
  | none => none
  | some t =>
    match s.track t with
    | none => none
    | some r => if r.prog = p then some (t, r) else none

/-- The programme in use whose source stream is `stream` (R10, R14, R132). -/
def State.progOfStream (s : State) (stream : Byte) : Option ProgSlot :=
  progSlots.find? fun p => (s.prog p).any (·.stream == stream)

/-- Whether a stream is the source stream of a programme in use or the output stream of a track in use (R14). -/
def State.streamInUse (s : State) (stream : Byte) : Bool :=
  progSlots.any (fun p => (s.prog p).any (·.stream == stream)) ||
    trackSlots.any (fun t => (s.track t).any (·.stream == stream))

/-! ### Counters, posted failures and notices -/

def State.count (s : State) (f : UnitCounters → UnitCounters) : State := { s with counters := f s.counters }

/-- A parcel, entry, mark, copy or request is dropped (R137). -/
def State.countDropped (s : State) : State := s.count fun c => { c with dropped := bump32 c.dropped 1 }

/-- An entry, mark or copy is discarded in drain (R18, R137). -/
def State.countDrainDiscard (s : State) : State := s.count fun c => { c with drainDiscards := bump32 c.drainDiscards 1 }

/-- Change a programme's eleven counters (R21). -/
def State.countIn (s : State) (p : ProgSlot) (f : ProgCounters → ProgCounters) : State :=
  s.modProg p fun r => { r with counters := f r.counters }

/-- Capture into the first-error record if it is absent, raising FIRST-ERROR (R15, R16). -/
def Programme.capture (r : Programme) (f : Failure) : Programme :=
  if r.firstError.isSome then r
  else { r with firstError := some f, notice := { r.notice with firstError := true } }

/-- Halt an ACTIVE programme whose escalation set holds the failure's code (R15). -/
def Programme.escalate (r : Programme) (code : ResultCode) : Programme :=
  if r.state = .active ∧ escalates r.escalation code then
    { r with state := .halted, haltCode := some code, notice := { r.notice with halted := true } }
  else r

/-- What one posted failure does to its programme (R15). A failure with the code HALTED is counted and nothing else. -/
def Programme.post (r : Programme) (f : Failure) : Programme :=
  let r := { r with failureCount := satAdd 65535 r.failureCount 1 }
  if f.code = .halted then r
  else
    match r.state with
    | .active => (r.capture f).escalate f.code
    | .halted => r.capture f
    | .draining => r
    | .closing => r

/-- Post a failure to a programme (R15); nothing is posted to a FREE one. -/
def State.post (s : State) (p : ProgSlot) (f : Failure) : State := s.modProg p (·.post f)

/-- The failure that counts a parcel dropped because its programme was HALTED, or discarded in drain (R15, R17, R18). -/
def haltedFailure (origin : FailureOrigin) (ordinal : BitVec 32) : Failure := ⟨.halted, origin, none, none, ordinal⟩

/-- Raise CONCEAL-DONE with a track in its track set (R22). -/
def NoticeSlot.raiseConcealDone (n : NoticeSlot) (t : TrackSlot) : NoticeSlot :=
  { n with concealDone := true, concealTracks := n.concealTracks ||| trackBit t }

/-- Raise EVENT-MISSED with a track in its track set (R22). -/
def NoticeSlot.raiseEventMissed (n : NoticeSlot) (t : TrackSlot) : NoticeSlot :=
  { n with eventMissed := true, missedTracks := n.missedTracks ||| trackBit t }

def State.raiseConcealDone (s : State) (p : ProgSlot) (t : TrackSlot) : State :=
  s.modProg p fun r => { r with notice := r.notice.raiseConcealDone t }

/-- EVENT-MISSED is raised in ACTIVE and HALTED, not in DRAINING or CLOSING (R112, log 25). -/
def State.raiseEventMissed (s : State) (p : ProgSlot) (t : TrackSlot) : State :=
  s.modProg p fun r =>
    match r.state with
    | .active => { r with notice := r.notice.raiseEventMissed t }
    | .halted => { r with notice := r.notice.raiseEventMissed t }
    | .draining => r
    | .closing => r

/-- Whether no notice kind is raised. -/
def NoticeSlot.isEmpty (n : NoticeSlot) : Bool :=
  !n.halted && !n.firstError && !n.concealDone && !n.segmentGap && !n.eventMissed

/-! ### The pools -/

/-- Cue records a track holds. -/
def TrackBody.cueCount : TrackBody → Nat
  | .sub b => b.cues.length
  | .ad b => b.cues.length

/-- Text blocks of subtitle cues. -/
def lineCount (cues : List SubCue) : Nat := (cues.map (·.lines.length)).sum

/-- Text blocks a track holds; AD cues hold none (R34). -/
def TrackBody.lineCount : TrackBody → Nat
  | .sub b => Machine.lineCount b.cues
  | .ad _ => 0

/-- Cue records in use: the sum of the lengths of all track cue lists (R33). -/
def State.cuesInUse (s : State) : Nat := (s.tracks.toList.map fun t => (t.map (·.body.cueCount)).getD 0).sum

/-- Text blocks in use: the lines of the subtitle cues in the store (R34). -/
def State.linesInUse (s : State) : Nat := (s.tracks.toList.map fun t => (t.map (·.body.lineCount)).getD 0).sum

/-- Pages present in a clip (R86). -/
def Clip.pagesPresent (c : Clip) : Nat := c.pages.countP Option.isSome

/-- Narration pages in use: the pages present over all clip records in use (R86). -/
def State.pagesInUse (s : State) : Nat := (s.clips.map (·.pagesPresent)).sum

def State.freeCues (s : State) : Nat := Config.cueRecords - s.cuesInUse
def State.freeLines (s : State) : Nat := Config.textBlocks - s.linesInUse
def State.freeClips (s : State) : Nat := Config.clipRecords - s.clips.length
def State.freePages (s : State) : Nat := Config.narrationPages - s.pagesInUse

/-! ### Clips -/

/-- Whether a clip record is the one of a programme and clip id. -/
def Clip.isOf (c : Clip) (p : ProgSlot) (id : Nat) : Bool := c.prog == p && c.id == id

/-- READY: every index holds a page (R85). -/
def Clip.ready (c : Clip) : Bool := c.pages.all Option.isSome

/-- The clip record of a clip id within its programme (R85). -/
def State.clip? (s : State) (p : ProgSlot) (id : Nat) : Option Clip := s.clips.find? (·.isOf p id)

/-- Whether a clip is READY; a clip id with no record is not (R92). -/
def State.clipReady (s : State) (p : ProgSlot) (id : Nat) : Bool := (s.clip? p id).any Clip.ready

/-- The current cue of an engine, absent in IDLE (R103). -/
def Engine.current? : Engine → Option CurrentCue
  | .idle => none
  | .attack _ c => some c
  | .play _ c => some c
  | .release _ c => some c

/-- The clip ids an AD track's cues reference: those of its list and of its current cue (R93). -/
def AdTrack.clipIds (a : AdTrack) : List Nat := a.cues.map (·.clip) ++ (a.engine.current?.map (·.clip)).toList

/-- Whether some AD cue of the programme references the clip id (R93). -/
def State.references (s : State) (p : ProgSlot) (id : Nat) : Bool :=
  trackSlots.any fun t => (s.track t).any fun r => r.prog == p && r.ad?.any fun a => a.clipIds.contains id

/-- Whether an AD track of the programme plays the clip (R90). -/
def State.playing (s : State) (p : ProgSlot) (id : Nat) : Bool :=
  trackSlots.any fun t => (s.track t).any fun r => r.prog == p && r.ad?.any fun a =>
    match a.engine with
    | .play _ c => c.clip == id
    | .idle => false
    | .attack _ _ => false
    | .release _ _ => false

/-- The freeing test: the clip is freed with its pages unless an AD cue of the programme references it (R94). -/
def State.freeingTest (s : State) (p : ProgSlot) (id : Nat) : State :=
  if s.references p id then s else { s with clips := s.clips.filter fun c => !c.isOf p id }

/-! ### Parcels the part makes, CTL places, replies -/

/-- The address byte of a unit and programme slot (R162). -/
def addressByte (unit : BitVec 4) (p : ProgSlot) : Byte := BitVec.ofNat 8 (unit.toNat * 16 + p.val)

/-- A parcel of the part's own, with both checks computed over it as placed (R162). -/
def makeParcel (kind addr stream : Byte) (body : List Byte) : Parcel where
  kind := kind
  addr := addr
  stream := stream
  body := body
  headerCheck := crc16 (headerBytes kind addr stream body.length)
  bodyCheck := crc32 body

/-- CTL places neither filled nor reserved (R139). -/
def State.ctlFree (s : State) : Nat := Config.ctlQueue - s.egress.ctl.length

def State.setCtl (s : State) (ctl : List CtlPlace) : State := { s with egress := { s.egress with ctl := ctl } }

/-- A REPLY parcel (R151, R164): unit address and programme slot in its address byte, the stream of its request, and in its
body tag, request name, result code, field length and fields. -/
def replyParcel (unit : BitVec 4) (p : ProgSlot) (stream : Byte) (tag : BitVec 16) (name : Byte) (code : ResultCode)
    (fields : List Byte) : Parcel :=
  makeParcel kindReply (addressByte unit p) stream
    (be 2 tag.toNat ++ [name] ++ be 1 code.number ++ be 2 fields.length ++ fields)

/-- Fill the first place that is `place` (R139). -/
def fillPlace (place filled : CtlPlace) : List CtlPlace → List CtlPlace
  | [] => []
  | c :: cs => if c = place then filled :: cs else c :: fillPlace place filled cs

/-- The request name of a deferred request (R163). -/
def DeferredKind.name : DeferredKind → Byte
  | .closeProgramme => 0x04
  | .resetProgramme => 0x05
  | .closeTrack _ => 0x07
  | .fence => 0x0B

/-- Place the reply DONE of a programme's deferred request in its reserved place (R151). -/
def State.answerDeferred (s : State) (p : ProgSlot) (d : Deferred) (fields : List Byte) : State :=
  s.setCtl (fillPlace (.reserved p) (.filled (replyParcel s.rx.address p d.stream d.tag d.kind.name .done fields)) s.egress.ctl)

end Sys2Proof.Machine
end

