-- ==== Sys2Proof/Machine/Egress.lean ====
section
/-! DEFINITION. The egress arbiter: credits (R141), grants (R142 to R144), parcels leaving (R140), settings (R146). -/

namespace Sys2Proof.Machine

/-- The parcel in a CTL place; a reserved place holds none (R139). -/
def CtlPlace.parcel? : CtlPlace → Option Parcel
  | .reserved _ => none
  | .reservedForUnit => none
  | .filled p => some p
  | .unitResetReply p => some p

/-- The placed parcel at the head of a requester's queue (R142). -/
def Egress.head? (e : Egress) : Requester → Option Parcel
  | .ctl => e.ctl.head?.bind CtlPlace.parcel?
  | .mix => e.mix.head?
  | .seg => e.seg.head?
  | .thru => e.thru.head?

/-- A requester is ready when the head of its queue is a placed parcel (R142). -/
def Egress.ready (e : Egress) (r : Requester) : Bool := (e.head? r).isSome

/-- The queue of a requester without its head: the place becomes free (R140). -/
def Egress.pop (e : Egress) : Requester → Egress
  | .ctl => { e with ctl := e.ctl.tail }
  | .mix => { e with mix := e.mix.tail }
  | .seg => { e with seg := e.seg.tail }
  | .thru => { e with thru := e.thru.tail }

/-- The parcel being sent: the head of the queue that holds the grant in force (R140). -/
def Egress.sending? (e : Egress) : Option Parcel := e.grant.bind fun g => e.head? g.requester

def PerRequester.get {α : Type} (q : PerRequester α) : Requester → α
  | .ctl => q.ctl
  | .mix => q.mix
  | .seg => q.seg
  | .thru => q.thru

/-- The priority order of FIXED, highest first (R143). -/
def priorityOrder : List Requester := [.ctl, .mix, .seg, .thru]

/-- The search of ROTATE: the cycle from the requester after the last granted one (R144). -/
def rotateOrder : Requester → List Requester
  | .ctl => [.mix, .seg, .thru, .ctl]
  | .mix => [.seg, .thru, .ctl, .mix]
  | .seg => [.thru, .ctl, .mix, .seg]
  | .thru => [.ctl, .mix, .seg, .thru]

/-- The choice of FIXED: the first ready requester at the pass-over limit, else the first ready one (R143). -/
def Egress.chooseFixed (e : Egress) (passOver : PerRequester Nat) : Option Requester :=
  (priorityOrder.find? fun r => e.ready r && passOver.get r == Config.passOverLimit).or (priorityOrder.find? e.ready)

/-- The choice of ROTATE: the first ready requester of the search (R144). -/
def Egress.chooseRotate (e : Egress) : Option Requester := (rotateOrder e.last).find? e.ready

def Egress.choose (e : Egress) (policy : Policy) (passOver : PerRequester Nat) : Option Requester :=
  match policy with
  | .fixed => e.chooseFixed passOver
  | .rotate => e.chooseRotate

/-- The allowance a grant mode gives (R142). -/
def GrantMode.allowance : GrantMode → Nat
  | .single => 1
  | .batch n => n

/-- A requester's pass-over count after a grant under FIXED: the chosen one's is 0, another ready one's is one more, at
most 64 (R143). -/
def Egress.passed (e : Egress) (chosen : Requester) (passOver : PerRequester Nat) (r : Requester) : Nat :=
  if r = chosen then 0
  else if e.ready r then satAdd Config.passOverLimit (passOver.get r) 1
  else passOver.get r

/-- The pass-over counts after a grant; under ROTATE they stay (R143, R144). -/
def Egress.passOverAfter (e : Egress) (policy : Policy) (chosen : Requester) (passOver : PerRequester Nat) :
    PerRequester Nat :=
  match policy with
  | .fixed => ⟨e.passed chosen passOver .ctl, e.passed chosen passOver .mix, e.passed chosen passOver .seg,
      e.passed chosen passOver .thru⟩
  | .rotate => passOver

/-- The settings the next grant is made under: the pending ones if there are any (R146). -/
def Egress.nextSettings (e : Egress) : EgressSettings := e.pendingSettings.getD e.settings

/-- The pass-over counts the next grant is chosen by: all 0 when the policy changes at it (R146). -/
def Egress.nextPassOver (e : Egress) : PerRequester Nat :=
  if e.nextSettings.policy = e.settings.policy then e.passOver else ⟨0, 0, 0, 0⟩

/-- Make a grant to `r`; its head parcel begins, which uses one credit (R140, R142). -/
def Egress.grantTo (e : Egress) (r : Requester) : Egress :=
  { e with
    grant := some ⟨r, (e.nextSettings.modes.get r).allowance, 0⟩
    credit := e.credit - 1
    settings := e.nextSettings
    pendingSettings := none
    passOver := e.passOverAfter e.nextSettings.policy r e.nextPassOver
    last := r }

/-- The arbiter makes a grant when none is in force, a requester is ready and there is credit (R142). -/
def Egress.makeGrant (e : Egress) : Egress :=
  if e.grant.isSome || e.credit == 0 then e
  else
    match e.choose e.nextSettings.policy e.nextPassOver with
    | none => e
    | some r => e.grantTo r

/-- Whether a grant goes on after its `sent`-th parcel has left: allowance, a placed head and credit are left (R142). -/
def Egress.goesOn (e : Egress) (g : Grant) : Bool := g.sent + 1 < g.allowance && e.ready g.requester && e.credit != 0

/-- The parcel sent under `g` has left: its place becomes free, and the grant goes on to the next head parcel, which begins,
or ends (R140, R142). -/
def Egress.afterLeaving (e : Egress) (g : Grant) : Egress :=
  let e := e.pop g.requester
  if e.goesOn g then { e with grant := some { g with sent := g.sent + 1 }, credit := e.credit - 1 }
  else { e with grant := none }

/-- Whether the head of CTL is the UNIT-RESET reply. -/
def Egress.resetReplyAtHead (e : Egress) : Bool :=
  match e.ctl with
  | .unitResetReply _ :: _ => true
  | .filled _ :: _ => false
  | .reserved _ :: _ => false
  | .reservedForUnit :: _ => false
  | [] => false

def Lanes.send (l : Lanes) (x : Sent) : Lanes := { l with left := l.left ++ [x] }

/-- EGRESS_CREDIT: one more credit; at 255 it is ignored (R141). -/
def execEgressCredit (s : State) : Outcome :=
  .next { s with egress := { s.egress with credit := satAdd 255 s.egress.credit 1 } }

/-- EGRESS_CREDIT_RESTART: the counter is set to 0; a parcel being sent goes on (R141). -/
def execEgressCreditRestart (s : State) : Outcome :=
  .next { s with egress := { s.egress with credit := 0 } }

/-- GRANT (R142), which holds the beginning of the granted parcel (R140). -/
def execGrant (s : State) : Outcome := .next { s with egress := s.egress.makeGrant }

/-- PARCEL_LEFT: the last byte of the parcel being sent has gone out (R140). When it is the UNIT-RESET reply, the unit reset
takes effect and the straps are sampled (R28, R136, R148, R160). With no parcel being sent there is nothing to leave. -/
def execParcelLeft (straps : BitVec 4) (s : State) : Outcome :=
  match s.egress.grant with
  | none => .next s
  | some g =>
    match s.egress.head? g.requester with
    | none => .next s
    | some p =>
      if g.requester = .ctl ∧ s.egress.resetReplyAtHead then
        .next (State.afterReset straps (s.lanes.send (.whole p)) s.pending)
      else .next { s with egress := s.egress.afterLeaving g, lanes := s.lanes.send (.whole p) }

end Sys2Proof.Machine
end

