-- ==== Sys2Proof/Machine/Formats.lean ====
section
/-! DEFINITION. The bodies the part makes (R164): SUBSEG, AD-AUDIO, NOTICE and the fields of every reply. -/

namespace Sys2Proof.Machine

/-! ### Common encodings -/

/-- An optional field: a presence byte, then the field's bytes, zeros when it is absent (R164). -/
def optField (n : Nat) (x : Option (List Byte)) : List Byte :=
  match x with
  | some bs => be 1 1 ++ bs
  | none => be 1 0 ++ be n 0

/-- A language tag: its length, then 8 bytes with padding 0 (R162, R164). -/
def tagBytes (tag : List Byte) : List Byte := be 1 tag.length ++ tag ++ List.replicate (8 - tag.length) 0

/-- A style entry of six bytes (R163). -/
def Style.bytes (x : Style) : List Byte :=
  be 1 x.alignment.number ++ be 1 x.anchor.number ++ be 1 x.colour ++ be 1 x.background.number ++ be 1 x.size.number
    ++ be 1 x.italic.toNat

/-- The first-error record: code, origin, track slot, item id, ingress ordinal (R164). -/
def Failure.bytes (f : Failure) : List Byte :=
  be 1 f.code.number ++ be 1 f.origin.number ++ optField 1 (f.track.map (be 1)) ++ optField 4 (f.item.map (be 4))
    ++ be 4 f.ordinal.toNat

/-- A notice slot: its kinds, then its two track sets (R164). -/
def NoticeSlot.bytes (n : NoticeSlot) : List Byte :=
  be 1 n.kindsNumber ++ be 8 n.concealTracks.toNat ++ be 8 n.missedTracks.toNat

/-- A window end X: status byte absent 0, resolved 1, unresolved 2, then 8 bytes (R164). -/
def windowEndBytes (w : Option Window) : List Byte :=
  match w with
  | none => be 1 0 ++ be 8 0
  | some w =>
    match w.x with
    | some x => be 1 1 ++ be 8 x
    | none => be 1 2 ++ be 8 0

/-- A grant mode and its n; the n of SINGLE is written 0 (log 18). -/
def GrantMode.bytes : GrantMode → List Byte
  | .single => be 1 0 ++ be 1 0
  | .batch n => be 1 1 ++ be 1 n

/-- The policy and grant modes, laid out as the SET-EGRESS parameters (R163, R164). -/
def EgressSettings.bytes (x : EgressSettings) : List Byte :=
  be 1 x.policy.number ++ x.modes.ctl.bytes ++ x.modes.mix.bytes ++ x.modes.seg.bytes ++ x.modes.thru.bytes

/-! ### SUBSEG and AD-AUDIO -/

/-- A SUBSEG entry (R164). -/
def Entry.bytes (e : Entry) : List Byte :=
  be 4 e.id ++ be 4 e.relStart ++ be 4 e.relEnd ++ be 1 e.region ++ e.style.bytes ++ be 1 e.flags.number
    ++ be 1 e.lines.length ++ e.lines.flatMap fun l => be 1 l.length ++ l

/-- A SUBSEG body (R67, R164). -/
def SubSeg.body (u : SubSeg) : List Byte :=
  be 1 u.track.val ++ tagBytes u.tag ++ be 4 u.k ++ be 8 u.start ++ be 4 u.length ++ be 1 u.flagsNumber
    ++ be 1 u.entries.length ++ u.entries.flatMap Entry.bytes

/-- The SUBSEG parcel of one track's part of a cut (R67). -/
def subsegParcel (unit : BitVec 4) (p : ProgSlot) (u : SubSeg) : Parcel :=
  makeParcel kindSubseg (addressByte unit p) u.stream u.body

/-- The four renderings (R117). -/
inductive RenderKind where
  | copy | ramp | narration | silent
deriving DecidableEq, Repr

def RenderKind.number : RenderKind → Nat
  | .copy => 0
  | .ramp => 1
  | .narration => 2
  | .silent => 3

/-- What the mixer makes of one copy for one track (R116). -/
structure Rendering where
  kind : RenderKind
  cueId : Option Nat
  halted : Bool
  substituted : Bool
  clipped : Nat
  samples : List Sample
deriving DecidableEq, Repr

/-- An AD-AUDIO body (R116, R164). -/
def adAudioBody (t : TrackSlot) (tag : List Byte) (tick : Nat) (x : Rendering) : List Byte :=
  be 1 t.val ++ tagBytes tag ++ be 8 tick ++ be 1 x.kind.number
    ++ be 1 (flagByte [x.halted, x.substituted, x.cueId.isSome]) ++ be 4 (x.cueId.getD 0) ++ be 2 x.clipped
    ++ x.samples.flatMap fun y => be 2 y.toNat

/-- The AD-AUDIO parcel of a rendering (R116). -/
def adAudioParcel (unit : BitVec 4) (p : ProgSlot) (t : TrackSlot) (stream : Byte) (tag : List Byte) (tick : Nat)
    (x : Rendering) : Parcel :=
  makeParcel kindAdAudio (addressByte unit p) stream (adAudioBody t tag tick x)

/-! ### NOTICE -/

/-- A NOTICE body (R157, R164). -/
def noticeBody (r : Programme) : List Byte :=
  r.notice.bytes ++ be 1 r.state.number ++ optField 1 (r.haltCode.map fun c => be 1 c.number)

/-- The NOTICE parcel of a programme (R157). -/
def noticeParcel (unit : BitVec 4) (p : ProgSlot) (r : Programme) : Parcel :=
  makeParcel kindNotice (addressByte unit p) r.stream (noticeBody r)

/-! ### Reply fields -/

/-- The fields of a FENCE reply: first-error record, count, state, halt code (R156). -/
def fenceFields (r : Programme) : List Byte :=
  optField 13 (r.firstError.map Failure.bytes) ++ be 2 r.failureCount ++ be 1 r.state.number
    ++ optField 1 (r.haltCode.map fun c => be 1 c.number)

/-- The capacities of R152 in its order; that of the four egress queues is the part's (log 15). -/
def capacities : List Nat :=
  [16, 64, Config.subTracks, Config.adTracks, Config.cueRecords, Config.cuesPerTrack, Config.textBlocks, Config.clipRecords,
    Config.narrationPages, Config.pagesPerClip, Config.styleEntries, Config.subsegEntries, Config.ingressBuffer,
    Config.loaderQueue, Config.markQueue, Config.audioQueue, Config.requestQueue]
  ++ (if Config.identifyListsThruFirst then [Config.thruQueue, Config.segQueue, Config.mixQueue, Config.ctlQueue]
      else [Config.ctlQueue, Config.mixQueue, Config.segQueue, Config.thruQueue])

/-- The fields of an IDENTIFY reply (R152, R164). -/
def identifyFields (unit : BitVec 4) : List Byte := be 2 2240 ++ be 1 1 ++ be 1 unit.toNat ++ capacities.flatMap (be 2)

/-- A track list: a count, then each track's slot, kind and state (R153, R164). -/
def State.trackListBytes (s : State) (ts : List TrackSlot) : List Byte :=
  be 1 ts.length ++ ts.flatMap fun t =>
    match s.track t with
    | some r => be 1 t.val ++ be 1 r.body.kindNumber ++ be 1 r.state.number
    | none => be 1 t.val ++ be 1 0 ++ be 1 0

/-- The fields of a READ-PROGRAMME reply (R153). -/
def State.programmeFields (s : State) (r : Programme) : List Byte :=
  be 1 r.state.number ++ [r.stream] ++ be 4 r.timebase.n ++ be 2 r.timebase.d ++ be 8 r.timebase.origin ++ be 2 r.threshold
    ++ [r.escalation] ++ be 8 r.cutLine ++ optField 4 (r.lastSegment.map (be 4)) ++ be 8 r.audioLine ++ be 1 r.quietRun
    ++ be 1 r.strictRun ++ optField 13 (r.firstError.map Failure.bytes) ++ be 2 r.failureCount
    ++ optField 1 (r.haltCode.map fun c => be 1 c.number) ++ r.notice.bytes ++ s.trackListBytes r.tracks

/-- The default style table (R47). -/
def defaultStyles : List Style :=
  [⟨.centre, .bottom, 0, .box, .normal, false⟩, ⟨.centre, .top, 0, .box, .normal, false⟩,
    ⟨.left, .bottom, 0, .box, .normal, false⟩, ⟨.centre, .bottom, 0, .box, .normal, true⟩]

/-- The entries of a style table (R47). -/
def StyleTable.entries : StyleTable → List Style
  | .default => defaultStyles
  | .loaded es => es

/-- The parcels left of ATTACK and RELEASE, the page index of PLAY, 0 in IDLE (R164). -/
def Engine.position : Engine → Nat
  | .idle => 0
  | .attack n _ => n
  | .play i _ => i
  | .release n _ => n

/-- The fields of a READ-TRACK reply that a SUB track has (R154). -/
def SubTrack.fields (b : SubTrack) : List Byte :=
  optField 1 (b.reference.map fun t => be 1 t.val) ++ be 1 b.styles.sourceNumber ++ be 1 b.styles.entries.length
    ++ be 2 b.cues.length ++ optField 8 (b.window.map fun w => be 8 w.f) ++ windowEndBytes b.window
    ++ optField 1 (b.window.map fun w => be 1 w.mode.number) ++ optField 1 (b.outcome.map fun o => be 1 o.number)

/-- The fields of a READ-TRACK reply that an AD track has (R103, R154). -/
def AdTrack.fields (b : AdTrack) : List Byte :=
  be 2 b.gn ++ be 2 b.gd ++ be 1 b.attack ++ be 1 b.release ++ be 1 b.engine.number ++ be 2 b.engine.position ++ be 2 b.gain
    ++ optField 8 (b.engine.current?.map fun c => be 4 c.id ++ be 4 c.clip) ++ be 2 b.cues.length
    ++ optField 5 (b.cues.head?.map fun c => be 4 c.id ++ be 1 c.state.number)

/-- The fields of a READ-TRACK reply (R154). -/
def Track.fields (t : TrackSlot) (r : Track) : List Byte :=
  be 1 t.val ++ be 1 r.body.kindNumber ++ be 1 r.state.number ++ [r.stream] ++ tagBytes r.tag
    ++ (match r.body with
      | .sub b => b.fields
      | .ad b => b.fields)

/-- The eleven programme counters in the order of R21. -/
def ProgCounters.fields (c : ProgCounters) : List Byte :=
  [c.cuesAccepted, c.cuesLate, c.cuesTrimmed, c.cuesSkipped, c.segmentsCut, c.entriesOverflowed, c.eventsDone, c.eventsMissed,
    c.quietParcels, c.marginalParcels, c.clippedSamples].flatMap (be 4)

/-- The nine unit counters in the order of R137. -/
def UnitCounters.fields (c : UnitCounters) : List Byte :=
  [c.taken, c.passed, c.consumed, c.dropped, c.headerFailures, c.bodyFailures, c.resyncs, c.overruns, c.drainDiscards].flatMap
    (be 4)

/-- Placed parcels of the CTL queue (R164). -/
def Egress.ctlPlaced (e : Egress) : Nat := e.ctl.countP fun c => c.parcel?.isSome

/-- The arbiter state that READ-COUNTERS returns (R147). -/
def Egress.fields (e : Egress) : List Byte :=
  e.settings.bytes ++ optField 9 (e.pendingSettings.map EgressSettings.bytes) ++ be 1 e.passOver.ctl ++ be 1 e.passOver.mix
    ++ be 1 e.passOver.seg ++ be 1 e.passOver.thru ++ be 1 e.last.number ++ be 1 e.credit ++ be 1 e.ctlPlaced
    ++ be 1 (e.ctl.length - e.ctlPlaced) ++ be 1 e.mix.length ++ be 1 e.seg.length ++ be 1 e.thru.length

/-- The fields of a READ-COUNTERS reply with the unit scope (R155). -/
def State.unitFields (s : State) : List Byte :=
  s.counters.fields ++ be 2 s.freeCues ++ be 2 s.freeLines ++ be 2 s.freeClips ++ be 2 s.freePages ++ s.egress.fields
    ++ be 1 s.rx.buffer.length ++ be 1 s.loaderQ.length ++ be 1 s.markQ.length ++ be 1 s.audioQ.length
    ++ be 1 s.requestQ.length

/-- The fields of a CONCEAL reply: F as fixed, X, the track's state (R74). -/
def concealFields (w : Window) (state : TrackState) : List Byte :=
  be 8 w.f ++ windowEndBytes (some w) ++ be 1 state.number

end Sys2Proof.Machine
end

