-- ==== Sys2Proof/Machine/Lane.lean ====
section
/-! DEFINITION. The unit-wide resets that act at once (R28, R138) and the lane receiver (R127 to R135). -/

namespace Sys2Proof.Machine

/-! ### Resets -/

/-- A reset that acts at once: a parcel being sent is cut off (R140), and every block is set as at power-on (R28, R138). -/
def State.resetAtOnce (s : State) (straps : BitVec 4) : State :=
  State.afterReset straps
    (match s.egress.sending? with
      | some p => s.lanes.send (.cutOff p)
      | none => s.lanes)
    s.pending

/-- POWER_ON (R28). -/
def execPowerOn (straps : BitVec 4) (s : State) : Outcome := .next (s.resetAtOnce straps)

/-- RESET_PIN (R138). -/
def execResetPin (straps : BitVec 4) (s : State) : Outcome := .next (s.resetAtOnce straps)

/-! ### Framing -/

/-- The buffer place reserved for the parcel in BODY (R130). -/
def Receiver.reservedPlaces (r : Receiver) : Nat :=
  match r.framing with
  | .body _ true => 1
  | .body _ false => 0
  | .header => 0
  | .hunt _ _ => 0

/-- Places of the ingress buffer neither filled nor reserved (R129). -/
def Receiver.freePlaces (r : Receiver) : Nat := Config.ingressBuffer - (r.buffer.length + r.reservedPlaces)

/-- Whether a hunt begun by a header failure is on, so that an accepted header ends it (R128). -/
def Receiver.resyncing (r : Receiver) : Bool :=
  match r.framing with
  | .hunt f _ => f
  | .header => false
  | .body _ _ => false

/-- The receiver accepts a header: a place is reserved if one is free, one credit is used and BODY begins (R127, R129, R130). -/
def Receiver.accept (r : Receiver) (h : Header) : Receiver :=
  { r with framing := .body h (r.freePlaces != 0), credit := r.credit - 1 }

/-- A credit restart: the sender holds no credit, then one for each free place (R129). -/
def State.creditRestart (s : State) : State :=
  { s with
    rx := { s.rx with credit := s.rx.freePlaces }
    lanes := { s.lanes with returned := s.lanes.returned ++ [.restart s.rx.freePlaces] } }

/-- A header is accepted; if it ends a hunt begun by a header failure, that counts a resync and makes a credit restart
(R128, R129). -/
def State.acceptHeader (s : State) (h : Header) : State :=
  let t := { s with rx := s.rx.accept h }
  if s.rx.resyncing then (t.count fun c => { c with resyncs := bump32 c.resyncs 1 }).creditRestart else t

/-- HEADER_ACCEPTED (R127). A CLOSED receiver discards the bytes unread (R138), and bytes that do not end in an accepted
header are not this event (log 1, log 7). -/
def execHeaderAccepted (bytes : List Byte) (s : State) : Outcome :=
  if s.rx.closed then .next s
  else
    match acceptedHeader s.rx.framing bytes with
    | none => .next s
    | some h => .next (s.acceptHeader h)

/-- HEADER_FAILURE (R128): in HEADER, nine bytes that are not accepted; the first is discarded and the hunt begins at the
next. -/
def execHeaderFailure (bytes : List Byte) (s : State) : Outcome :=
  if s.rx.closed || s.rx.framing != .header || bytes.length != 9 || headerAccepts bytes then .next s
  else
    .next ({ s with rx := { s.rx with framing := .hunt true bytes.tail } }.count
      fun c => { c with headerFailures := bump32 c.headerFailures 1 })

/-- OVERRUN (R130): a parcel with no place has been read to its end, and is discarded and counted. -/
def execOverrun (bytes : List Byte) (s : State) : Outcome :=
  match s.rx.framing with
  | .body h false =>
    if s.rx.closed || bytes.length != h.length + 4 then .next s
    else
      .next ({ s with rx := { s.rx with framing := .header } }.count fun c => { c with overruns := bump32 c.overruns 1 })
  | .body _ true => .next s
  | .header => .next s
  | .hunt _ _ => .next s

/-- Whether a parcel of class `c` is one the unit consumes (R131). -/
def ParcelClass.addressed : ParcelClass → Bool
  | .posted => true
  | .request => true
  | .audio => false
  | .mark => false
  | .foreign => false

/-- The entry a parcel makes in the ingress buffer, sorted and judged (R130, R131). -/
def Receiver.entryOf (r : Receiver) (p : Parcel) : IngressEntry where
  parcel := p
  ordinal := r.ordinal
  cls := classOf r.address p
  corrupt := corruptIn (classOf r.address p) p

/-- The counters of a taking (R130, R131, R137). -/
def UnitCounters.take (c : UnitCounters) (e : IngressEntry) : UnitCounters :=
  { c with
    taken := bump32 c.taken 1
    bodyFailures := if e.corrupt then bump32 c.bodyFailures 1 else c.bodyFailures
    consumed := if e.cls.addressed && !e.corrupt then bump32 c.consumed 1 else c.consumed }

/-- A parcel fills its reserved place and receives the ingress ordinal (R130). -/
def State.takeWhole (s : State) (p : Parcel) : State :=
  { s with
    rx := { s.rx with
      framing := .header
      buffer := s.rx.buffer ++ [s.rx.entryOf p]
      ordinal := s.rx.ordinal + 1 }
    counters := s.counters.take (s.rx.entryOf p) }

/-- TAKEN_WHOLE (R130). -/
def execTakenWhole (bytes : List Byte) (s : State) : Outcome :=
  match s.rx.framing with
  | .body h true =>
    if s.rx.closed || bytes.length != h.length + 4 then .next s
    else .next (s.takeWhole (parcelOf h bytes))
  | .body _ false => .next s
  | .header => .next s
  | .hunt _ _ => .next s

/-! ### Routing -/

/-- The programme to which a copy of an AUDIO or MARK parcel goes: ACTIVE, HALTED or DRAINING (R132). -/
def State.copyProg (s : State) (stream : Byte) : Option ProgSlot :=
  (s.progOfStream stream).filter fun p => (s.prog p).any fun r => r.state != .closing

def State.thruRoom (s : State) : Bool := s.egress.thru.length < Config.thruQueue
def State.audioRoom (s : State) : Bool := s.audioQ.length < Config.audioQueue
def State.markRoom (s : State) : Bool := s.markQ.length < Config.markQueue
def State.loaderRoom (s : State) : Bool := s.loaderQ.length < Config.loaderQueue
def State.requestRoom (s : State) : Bool := s.requestQ.length < Config.requestQueue

/-- Pass a parcel to THRU unchanged (R132, R137). -/
def State.pass (s : State) (p : Parcel) : State :=
  { s with
    egress := { s.egress with thru := s.egress.thru ++ [p] }
    counters := { s.counters with passed := bump32 s.counters.passed 1 } }

/-- The head leaves the ingress buffer, and an OPEN receiver returns one credit (R129, R132, R138). -/
def State.leaveBuffer (s : State) : State :=
  if s.rx.closed then { s with rx := { s.rx with buffer := s.rx.buffer.tail } }
  else
    { s with
      rx := { s.rx with buffer := s.rx.buffer.tail, credit := s.rx.credit + 1 }
      lanes := { s.lanes with returned := s.lanes.returned ++ [.credit] } }

/-- The copy of a PROG-AUDIO, with the substituted mark set when the parcel is corrupt (R97, R133). -/
def audioCopyOf (e : IngressEntry) (p : ProgSlot) : AudioCopy where
  body := e.parcel.body
  prog := p
  stream := e.parcel.stream
  ordinal := e.ordinal
  substituted := e.corrupt

/-- The posted failure of a corrupt parcel (R134, R135). -/
def integrityFailure (origin : FailureOrigin) (e : IngressEntry) : Failure := ⟨.integrity, origin, none, none, e.ordinal⟩

/-- The origin of a failure of a POSTED parcel, by its kind (R135). -/
def postedOrigin (p : Parcel) : FailureOrigin := if p.kind == kindNarration then .narration else .cueload

/-- The loader queue entry of a POSTED parcel (R29). -/
def loaderEntryOf (e : IngressEntry) : LoaderEntry :=
  if e.parcel.kind == kindNarration then .narration e.parcel e.ordinal else .cueload e.parcel e.ordinal

/-- Post the failure of a corrupt SEGMARK to the programme of its stream, if there is one (R134). -/
def State.postMarkFailure (s : State) (e : IngressEntry) : State :=
  match s.progOfStream e.parcel.stream with
  | some p => s.post p (integrityFailure .segmark e)
  | none => s

/-- Routing of an AUDIO parcel (R132, R133). A parcel already buffered when UNIT-RESET was taken is copied as well (log 29). -/
def State.routeAudio (s : State) (e : IngressEntry) : State :=
  match s.copyProg e.parcel.stream with
  | some p =>
    if s.thruRoom && s.audioRoom then
      { (s.pass e.parcel).leaveBuffer with audioQ := s.audioQ ++ [audioCopyOf e p] }
    else s
  | none => if s.thruRoom then (s.pass e.parcel).leaveBuffer else s

/-- Routing of a MARK parcel (R132, R134). A parcel already buffered when UNIT-RESET was taken places its mark as well (log 29). -/
def State.routeMark (s : State) (e : IngressEntry) : State :=
  if e.corrupt then
    if s.thruRoom then ((s.pass e.parcel).leaveBuffer).postMarkFailure e else s
  else
    match s.copyProg e.parcel.stream with
    | some p =>
      if s.thruRoom && s.markRoom then
        { (s.pass e.parcel).leaveBuffer with markQ := s.markQ ++ [markOf e.parcel p e.ordinal] }
      else s
    | none => if s.thruRoom then (s.pass e.parcel).leaveBuffer else s

/-- Routing of a POSTED parcel (R132, R135). A parcel already buffered when UNIT-RESET was taken is placed as well (log 29). -/
def State.routePosted (s : State) (e : IngressEntry) : State :=
  if e.corrupt then
    s.leaveBuffer.countDropped.post e.parcel.slot (integrityFailure (postedOrigin e.parcel) e)
  else if s.loaderRoom then { s.leaveBuffer with loaderQ := s.loaderQ ++ [loaderEntryOf e] }
  else s

/-- Routing of a REQUEST parcel (R132, R135). -/
def State.routeRequest (s : State) (e : IngressEntry) : State :=
  if e.corrupt then s.leaveBuffer.countDropped
  else if s.requestRoom then { s.leaveBuffer with requestQ := s.requestQ ++ [requestOf e.parcel e.ordinal] }
  else s

/-- Routing of a FOREIGN parcel (R132). -/
def State.routeForeign (s : State) (e : IngressEntry) : State :=
  if s.thruRoom then (s.pass e.parcel).leaveBuffer else s

/-- ROUTING: the head of the ingress buffer is routed when every queue it needs has room; else it waits (R132). While a UNIT-RESET is
outstanding the buffered parcels are still routed into their queues, by R138 and R159 against R31, R52, R97 and R115 (log 29). -/
def execRouting (s : State) : Outcome :=
  match s.rx.buffer with
  | [] => .next s
  | e :: _ =>
    match e.cls with
    | .audio => .next (s.routeAudio e)
    | .mark => .next (s.routeMark e)
    | .posted => .next (s.routePosted e)
    | .request => .next (s.routeRequest e)
    | .foreign => .next (s.routeForeign e)

end Sys2Proof.Machine
end

