-- ==== Sys2Proof/Machine/Audio.lean ====
section
/-! DEFINITION. The audio path: taking a copy (R98 to R101), the quiet detector (R102), the mixer (R116 to R124). -/

namespace Sys2Proof.Machine

/-! ### The parcel tick -/

/-- A copy at its taking: one whose carried tick is above 2^48 - 1 is treated as substituted (R101). -/
def AudioCopy.taken (c : AudioCopy) : AudioCopy :=
  if maxTick < c.carriedTick then { c with substituted := true } else c

/-- The tick that follows the last parcel taken: the audio line plus 900, or the line itself at the end of the range (R101). -/
def nextTick (audioLine : Nat) : Nat := if audioLine + 900 ≤ maxTick then audioLine + 900 else audioLine

/-- The parcel tick of a taken copy (R101). -/
def AudioCopy.tick (c : AudioCopy) (audioLine : Nat) : Nat := if c.substituted then nextTick audioLine else c.carriedTick

/-! ### The quiet detector (R102) -/

/-- The magnitude of a sample; that of -32,768 is 32,768. -/
def magnitude (x : Sample) : Nat := x.toInt.natAbs

/-- The 320 samples of a third, both channels together. -/
def thirdOf (xs : List Sample) (i : Nat) : List Sample := (xs.drop (320 * i)).take 320

/-- A third is quiet when its peak is at or below the threshold. -/
def quietThird (threshold : Nat) (xs : List Sample) : Bool := xs.all fun x => magnitude x ≤ threshold

/-- The number of quiet thirds. -/
def quietThirds (threshold : Nat) (xs : List Sample) : Nat := [0, 1, 2].countP fun i => quietThird threshold (thirdOf xs i)

inductive Verdict where
  | quiet | marginal | loud
deriving DecidableEq, Repr

/-- The verdict by the number of quiet thirds. -/
def verdictOf (n : Nat) : Verdict := if n = 3 then .quiet else if n = 2 then .marginal else .loud

/-- The verdict of a taken copy; a substituted copy is LOUD. -/
def AudioCopy.verdict (c : AudioCopy) (threshold : Nat) : Verdict :=
  if c.substituted then .loud else verdictOf (quietThirds threshold c.samples)

/-- A run increased by 1; it stops at 255. -/
def bumpRun (n : Nat) : Nat := satAdd 255 n 1

/-- The runs and counters of a programme after a verdict. -/
def Programme.judged (r : Programme) (v : Verdict) : Programme :=
  match v with
  | .quiet =>
    { r with
      quietRun := bumpRun r.quietRun
      strictRun := bumpRun r.strictRun
      counters := { r.counters with quietParcels := bump32 r.counters.quietParcels 1 } }
  | .marginal =>
    { r with
      quietRun := bumpRun r.quietRun
      strictRun := 0
      counters := { r.counters with marginalParcels := bump32 r.counters.marginalParcels 1 } }
  | .loud => { r with quietRun := 0, strictRun := 0 }

/-- A copy taken in ACTIVE or HALTED moves the audio line (R100) and is judged (R102). -/
def Programme.hear (r : Programme) (c : AudioCopy) : Programme :=
  { r with audioLine := c.tick r.audioLine }.judged (c.verdict r.threshold)

/-! ### Taking a copy -/

/-- The AD tracks among slots that are ACTIVE, in order (R98). -/
def State.servedTracks (s : State) (ts : List TrackSlot) : List TrackSlot :=
  ts.filter fun t => (s.track t).any fun r => r.state == .active && r.ad?.isSome

/-- A taken copy becomes the current parcel; serving no track it ends at once (R98, R99). -/
def State.makeCurrent (s : State) (r : Programme) (c : AudioCopy) : State :=
  let served := s.servedTracks r.tracks
  if served.isEmpty then s
  else
    { s with
      audio := some {
        copy := c
        tick := c.tick r.audioLine
        takenIn := r.state
        served := served
        toRender := served
        toStep := if r.state = .active then served else []
        rendered := none
        inFlight := false } }

/-- AUDIO_TAKE (R98): with no current parcel, the head of the audio queue is taken. -/
def execAudioTake (s : State) : Outcome :=
  match s.audio with
  | some _ => .next s
  | none =>
    match s.audioQ with
    | [] => .next s
    | c :: rest =>
      let s := { s with audioQ := rest }
      match s.prog c.prog with
      | none => .next s.countDropped
      | some r =>
        if r.stream ≠ c.stream then .next s.countDropped
        else
          match r.state with
          | .closing => .next s.countDrainDiscard
          | .draining => .next (s.makeCurrent r c.taken)
          | .halted => .next ((s.modProg c.prog (·.hear c.taken)).makeCurrent r c.taken)
          | .active => .next ((s.modProg c.prog (·.hear c.taken)).makeCurrent r c.taken)

/-! ### Mixing (R119 to R122) -/

/-- Gain g_k of a ramp from `ga` to `gb` over `n` parcels (R121). -/
def rampGain (ga gb n k : Nat) : Nat :=
  ((ga : Int) + Int.tdiv (((gb : Int) - (ga : Int)) * ((k : Int) + 1)) ((n : Int) * 480)).toNat

/-- The output before the clamp: (p × g + q × gn + 16,384) / 32,768, rounded down (R119). -/
def mixSample (p q : Sample) (g gn : Nat) : Int := (p.toInt * (g : Int) + q.toInt * (gn : Int) + 16384) / 32768

/-- Whether a value lies outside the range of a sample, so that it is clamped and counted (R120). -/
def outOfRange (y : Int) : Bool := y < -32768 || 32767 < y

/-- The clamp of R120. -/
def clampSample (y : Int) : Sample :=
  if 32767 < y then 0x7FFF#16 else if y < -32768 then 0x8000#16 else BitVec.ofInt 16 y

/-- Frames mixed in order from frame `i`, left then right, with a programme gain and a narration sample for each frame. -/
def mixFrames (g : Nat → Nat) (q : Nat → Sample) (gn : Nat) : Nat → List Sample → List Int
  | i, l :: r :: rest => mixSample l (q i) (g i) gn :: mixSample r (q i) (g i) gn :: mixFrames g q gn (i + 1) rest
  | _, _ => []

/-- The duck gain of a cue on a track (R103). -/
def AdTrack.duckGain (a : AdTrack) (c : CurrentCue) : Nat := c.gd.getD a.gd

/-- The narration gain of a cue on a track (R103). -/
def AdTrack.narrationGain (a : AdTrack) (c : CurrentCue) : Nat := c.gn.getD a.gn

/-- The narration sample of frame `i` from page `page` of a clip: 0 at and after the valid samples of the last page (R122). A
page that is not present gives 0; the store holds every page that is played (log 20). -/
def Clip.sampleAt (c : Clip) (page i : Nat) : Sample :=
  if page + 1 = c.declared ∧ c.lastValid.getD 480 ≤ i then 0 else ((c.pages.getD page none).getD []).getD i 0

/-- The narration sample of frame `i` when a cue of programme `p` plays page `page` (R122). -/
def State.narration (s : State) (p : ProgSlot) (cue : CurrentCue) (page i : Nat) : Sample :=
  match s.clip? p cue.clip with
  | some c => c.sampleAt page i
  | none => 0

/-- The frame of the ramp that is frame `i` of the parcel with `m` of `n` parcels left (R121). -/
def rampFrame (n m i : Nat) : Nat := 480 * (n - m) + i

/-- The gain the last frame of a parcel has, by the engine state; from IDLE it stays (R118, R121 to R123). -/
def AdTrack.gainAfter (a : AdTrack) : Nat :=
  match a.engine with
  | .idle => a.gain
  | .attack m _ => rampGain a.rampStart a.rampTarget a.attack (rampFrame a.attack m 479)
  | .release m _ => rampGain a.rampStart a.rampTarget a.release (rampFrame a.release m 479)
  | .play _ c => a.duckGain c

/-- A mixed rendering: clamped, with the clamped samples counted (R120). -/
def mixed (kind : RenderKind) (cue : CurrentCue) (ys : List Int) : Rendering where
  kind := kind
  cueId := some cue.id
  halted := false
  substituted := false
  clipped := ys.countP outOfRange
  samples := ys.map clampSample

/-- The rendering of a whole copy of an ACTIVE programme, by the engine state (R117, R118, R121, R122). -/
def State.renderEngine (s : State) (p : ProgSlot) (a : AdTrack) (xs : List Sample) : Rendering :=
  match a.engine with
  | .idle => ⟨.copy, none, false, false, 0, xs⟩
  | .attack m c =>
    mixed .ramp c (mixFrames (fun i => rampGain a.rampStart a.rampTarget a.attack (rampFrame a.attack m i)) (fun _ => 0) 0 0 xs)
  | .release m c =>
    mixed .ramp c (mixFrames (fun i => rampGain a.rampStart a.rampTarget a.release (rampFrame a.release m i)) (fun _ => 0) 0 0 xs)
  | .play page c =>
    mixed .narration c (mixFrames (fun _ => a.duckGain c) (s.narration p c page) (a.narrationGain c) 0 xs)

/-- The choice of rendering (R117): engines for a copy taken in ACTIVE, silence for a substituted one (R123), else a copy
flagged HALTED (R124). -/
def State.render (s : State) (w : AudioWork) (a : AdTrack) : Rendering :=
  if w.takenIn = .active then
    if w.copy.substituted then
      ⟨.silent, a.engine.current?.map (·.id), false, true, 0, List.replicate 960 0⟩
    else s.renderEngine w.copy.prog a w.copy.samples
  else if w.copy.substituted then ⟨.silent, none, true, true, 0, List.replicate 960 0⟩
  else ⟨.copy, none, true, false, 0, w.copy.samples⟩

/-- What a rendering writes: the current gain for a copy taken in ACTIVE, and the clipped samples (R117, R124). -/
def State.writeRendering (s : State) (w : AudioWork) (t : TrackSlot) (a : AdTrack) : State :=
  let s' := if w.takenIn = .active then s.modAd t fun b => { b with gain := a.gainAfter } else s
  s'.countIn w.copy.prog fun k => { k with clippedSamples := bump32 k.clippedSamples (s.render w a).clipped }

/-- The AD-AUDIO parcel of a track for the current copy (R116). -/
def State.adAudioOf (s : State) (w : AudioWork) (t : TrackSlot) (r : Track) (a : AdTrack) : Parcel :=
  adAudioParcel s.rx.address w.copy.prog t r.stream r.tag w.tick (s.render w a)

/-! ### Placing -/

def State.mixRoom (s : State) : Bool := s.egress.mix.length < Config.mixQueue

/-- The current parcel goes on, or ends when nothing is left to render, place or step (R98, R99). -/
def State.continueAudio (s : State) (w : AudioWork) : State :=
  { s with audio := if w.toRender.isEmpty && w.toStep.isEmpty && w.rendered.isNone then none else some w }

/-- Place a rendered parcel in the MIX queue if there is room, else wait with it (R117). -/
def State.placeMix (s : State) (w : AudioWork) (p : Parcel) : State :=
  if s.mixRoom then
    { s with egress := { s.egress with mix := s.egress.mix ++ [p] } }.continueAudio { w with rendered := none }
  else s.continueAudio { w with rendered := some p }

/-- AD_AUDIO_PLACED (R117): the next served track is rendered and its parcel placed; a parcel that found MIX full is rendered
and waits, and is placed at a later one (log 21). -/
def execAdAudioPlaced (s : State) : Outcome :=
  match s.audio with
  | none => .next s
  | some w =>
    match w.rendered with
    | some p => .next (s.placeMix w p)
    | none =>
      match w.toRender with
      | [] => .next s
      | t :: rest =>
        match s.track t with
        | none => .next (s.continueAudio { w with toRender := rest })
        | some r =>
          match r.ad? with
          | none => .next (s.continueAudio { w with toRender := rest })
          | some a => .next ((s.writeRendering w t a).placeMix { w with toRender := rest } (s.adAudioOf w t r a))

end Sys2Proof.Machine
end

