-- ==== Sys2Proof/Machine/Loader.lean ====
section
/-! DEFINITION. The time converter (R4 to R6) and the cue loader (R29 to R46, R78, R79). -/

namespace Sys2Proof.Machine

/-! ### Conversion -/

/-- The tick offset of a source unit: u × 90,000 × D / N rounded to the nearest, halves up (R4). -/
def Timebase.offset (tb : Timebase) (u : Nat) : Nat := (2 * u * 90000 * tb.d + tb.n) / (2 * tb.n)

/-- The absolute tick of a source unit; refused above 2^48 - 1 (R4, R5). -/
def Timebase.tick (tb : Timebase) (u : Nat) : Option Nat :=
  if tb.origin + tb.offset u ≤ maxTick then some (tb.origin + tb.offset u) else none

/-! ### Order of the lists (R37) -/

def SubCue.before (a b : SubCue) : Bool := a.start < b.start || (a.start == b.start && a.id < b.id)

def AdCue.before (a b : AdCue) : Bool := a.earliest < b.earliest || (a.earliest == b.earliest && a.id < b.id)

/-! ### A record that fails, and the end of a parcel -/

/-- Post the failure of one record; LATE is also counted in the cues late (R46). -/
def State.failRecord (s : State) (c : CueLoading) (r : List Byte) (code : ResultCode) : State :=
  let s := if code = .late then s.countIn c.prog fun k => { k with cuesLate := bump32 k.cuesLate 1 } else s
  s.post c.prog ⟨code, .cueload, some c.track, some (recordId r), c.ordinal⟩

/-- Go on to the records left; the parcel ends when its last record has been applied (R32). -/
def State.advanceLoader (s : State) (c : CueLoading) (rest : List (List Byte)) : State :=
  { s with loading := if rest.isEmpty then none else some (.cueload { c with records := rest }) }

/-- The first three tests of R38: the track the parcel names, the record's kind, its cue id. -/
def State.recordTrack (s : State) (c : CueLoading) (r : List Byte) : Except ResultCode (TrackSlot × Track) :=
  match s.trackOf c.prog c.track with
  | none => .error .absent
  | some (t, tr) =>
    if tr.state = .closing then .error .absent
    else if recordKind r ≠ tr.body.kindNumber then .error .range
    else if recordId r = 0 then .error .range
    else .ok (t, tr)

/-! ### PLACE: subtitle cues -/

/-- The cue a subtitle record makes (R35, R39): refused when a time passes the tick range (R5) or it is empty (R6). -/
def SubPlace.cue (pl : SubPlace) (tb : Timebase) : Except ResultCode SubCue :=
  match tb.tick pl.startUnit, tb.tick pl.endUnit with
  | some a, some b =>
    if b ≤ a then .error .range
    else
      .ok {
        id := pl.id
        start := a
        stop := b
        region := pl.region
        style := pl.style
        forced := pl.forced
        lines := pl.lines
        trimmed := false
        emitted := false }
  | _, _ => .error .range

/-- The test against the cut line (R39). -/
def SubCue.againstCutLine (c : SubCue) (cutLine : Nat) : Except ResultCode SubCue :=
  if c.stop ≤ cutLine then .error .late
  else if c.start < cutLine then .ok { c with start := cutLine, trimmed := true }
  else .ok c

/-- The test against the window of a CONCEALING track (R41, R78). -/
def SubCue.againstWindow (c : SubCue) (w : Window) : Except ResultCode SubCue :=
  if c.start < w.f && w.f < c.stop then .ok { c with stop := w.f, trimmed := true }
  else
    match w.mode with
    | .untilResume => .ok c
    | .span => if w.f ≤ c.start && w.x.all (c.start < ·) then .error .late else .ok c

/-- The window a track's loads are tested against: that of a CONCEALING track (R41). -/
def Track.testWindow (tr : Track) (b : SubTrack) : Option Window := if tr.state = .concealing then b.window else none

/-- The cue a subtitle record inserts, after the tests of R39 and R41. -/
def testedSubCue (pl : SubPlace) (r : Programme) (tr : Track) (b : SubTrack) : Except ResultCode SubCue :=
  match pl.cue r.timebase with
  | .error e => .error e
  | .ok c =>
    match c.againstCutLine r.cutLine with
    | .error e => .error e
    | .ok c =>
      match tr.testWindow b with
      | none => .ok c
      | some w => c.againstWindow w

/-- Whether the store has room, the replaced cue counted as freed (R43). -/
def State.roomForSub (s : State) (b : SubTrack) (old : Option SubCue) (c : SubCue) : Bool :=
  1 ≤ s.freeCues + old.isSome.toNat && c.lines.length ≤ s.freeLines + (old.map (·.lines.length)).getD 0
    && b.cues.length - old.isSome.toNat < Config.cuesPerTrack

/-- The window end after a cue of start `start` is inserted in the UNTIL-RESUME mode (R79). -/
def Window.lowered (w : Window) (start : Nat) : Window :=
  match w.mode with
  | .span => w
  | .untilResume =>
    if start < w.f then w
    else
      { w with
        x := some (match w.x with
          | none => start
          | some x => min x start) }

/-- Whether a window is resolved at or below a cut line, so that the concealment completes (R79, R82). -/
def Window.reached (w : Window) (cutLine : Nat) : Bool := w.x.any (· ≤ cutLine)

/-- A CONCEALING track completes: ACTIVE, outcome REPAIRED, its window kept (R73, R79, R82). -/
def Track.repaired (tr : Track) : Track := { tr.modSub (fun b => { b with outcome := some .repaired }) with state := .active }

/-- The concealing track returns to ACTIVE and CONCEAL-DONE is raised (R79, R82). -/
def State.completeConceal (s : State) (p : ProgSlot) (t : TrackSlot) : State :=
  (s.modTrack t Track.repaired).raiseConcealDone p t

/-- The insertion of a cue into a CONCEALING track resolves or lowers X, and may complete the concealment (R79). -/
def State.resolveWindow (s : State) (p : ProgSlot) (t : TrackSlot) (tr : Track) (b : SubTrack) (cutLine start : Nat) : State :=
  match tr.testWindow b with
  | none => s
  | some w =>
    let s := s.modSub t fun b => { b with window := some (w.lowered start) }
    if w.mode = .untilResume ∧ (w.lowered start).reached cutLine then s.completeConceal p t else s

/-- Insert a subtitle cue in place of the cue of its id, if there is one (R43). -/
def SubTrack.insert (b : SubTrack) (c : SubCue) : SubTrack :=
  { b with cues := insertBy SubCue.before c (b.cues.filter fun x => x.id != c.id) }

/-- PLACE of a subtitle record that passed R38: tests of R39, R41, R42, then the insertion of R43. A replacement that
is trimmed counts in the cues trimmed as well, the model's choice between R43 and R44 (log 30). -/
def State.placeSub (s : State) (p : ProgSlot) (r : Programme) (t : TrackSlot) (tr : Track) (b : SubTrack) (pl : SubPlace) :
    Except ResultCode State :=
  match testedSubCue pl r tr b with
  | .error e => .error e
  | .ok c =>
    let old := b.cues.find? fun x => x.id == c.id
    if old.any (·.emitted) then .error .late
    else if !s.roomForSub b old c then .error .full
    else
      let s := s.modSub t fun b => b.insert c
      let s := s.countIn p fun k =>
        { k with
          cuesAccepted := bump32 k.cuesAccepted 1
          cuesTrimmed := if c.trimmed then bump32 k.cuesTrimmed 1 else k.cuesTrimmed }
      .ok (s.resolveWindow p t tr b r.cutLine c.start)

/-! ### PLACE: description cues -/

/-- The cue a description record makes (R36, R39). -/
def AdPlace.cue (pl : AdPlace) (tb : Timebase) : Except ResultCode AdCue :=
  match tb.tick pl.earliestUnit, tb.tick pl.latestUnit with
  | some a, some b =>
    .ok {
      id := pl.id
      earliest := a
      latest := b
      clip := pl.clip
      hold := pl.hold
      strict := pl.strict
      gn := pl.gn
      gd := pl.gd
      state := .pending }
  | _, _ => .error .range

/-- The test against the audio line (R40). -/
def AdCue.againstAudioLine (c : AdCue) (audioLine : Nat) : Except ResultCode AdCue :=
  if c.latest < audioLine then .error .late else .ok c

/-- Whether the current cue of an AD track bears an id (R42, R45). -/
def AdTrack.isCurrent (b : AdTrack) (id : Nat) : Bool := b.engine.current?.any fun c => c.id == id

/-- Whether the store has room, the replaced cue counted as freed (R43). -/
def State.roomForAd (s : State) (b : AdTrack) (old : Option AdCue) : Bool :=
  1 ≤ s.freeCues + old.isSome.toNat && b.cues.length - old.isSome.toNat < Config.cuesPerTrack

/-- Insert a description cue in place of the cue of its id, if there is one (R43, R44). -/
def AdTrack.insert (b : AdTrack) (c : AdCue) : AdTrack :=
  { b with cues := insertBy AdCue.before c (b.cues.filter fun x => x.id != c.id) }

/-- PLACE of a description record that passed R38: tests of R39, R40, R42, then the insertion of R43. -/
def State.placeAd (s : State) (p : ProgSlot) (r : Programme) (t : TrackSlot) (b : AdTrack) (pl : AdPlace) :
    Except ResultCode State :=
  match pl.cue r.timebase with
  | .error e => .error e
  | .ok c =>
    match c.againstAudioLine r.audioLine with
    | .error e => .error e
    | .ok c =>
      let old := b.cues.find? fun x => x.id == c.id
      if b.isCurrent c.id then .error .late
      else if !s.roomForAd b old then .error .full
      else
        let s := s.modAd t fun b => b.insert c
        .ok (s.countIn p fun k => { k with cuesAccepted := bump32 k.cuesAccepted 1 })

/-- The result of a PLACE record (R38 to R44). -/
def State.applyPlace (s : State) (c : CueLoading) (prog : Programme) (r : List Byte) : Except ResultCode State :=
  match s.recordTrack c r with
  | .error e => .error e
  | .ok (t, tr) =>
    match tr.body with
    | .sub b =>
      match subPlaceOf r with
      | none => .error .range
      | some pl => s.placeSub c.prog prog t tr b pl
    | .ad b =>
      match adPlaceOf r with
      | none => .error .range
      | some pl => s.placeAd c.prog prog t b pl

/-! ### WITHDRAW and other ops -/

/-- The result of a WITHDRAW record (R38, R45); its record length is 8 (R163). -/
def State.applyWithdraw (s : State) (c : CueLoading) (_prog : Programme) (r : List Byte) : Except ResultCode State :=
  match s.recordTrack c r with
  | .error e => .error e
  | .ok (t, tr) =>
    if r.length ≠ 8 then .error .range
    else
      match tr.body with
      | .sub b =>
        match b.cues.find? fun x => x.id == recordId r with
        | none => .error .absent
        | some x =>
          if x.emitted then .error .late
          else .ok (s.modSub t fun b => { b with cues := b.cues.filter fun y => y.id != recordId r })
      | .ad b =>
        if b.isCurrent (recordId r) then .error .late
        else if b.cues.any fun x => x.id == recordId r then
          .ok (s.modAd t fun b => { b with cues := b.cues.filter fun y => y.id != recordId r })
        else .error .absent

/-- The result of a record of any other op: tested by R38, whose fourth test it fails (R163). -/
def State.applyOther (s : State) (c : CueLoading) (_prog : Programme) (r : List Byte) : Except ResultCode State :=
  match s.recordTrack c r with
  | .error e => .error e
  | .ok _ => .error .range

/-! ### Reaching a record -/

/-- The loader reaches the next record of its current CUELOAD, if that record's op is one of `op` (R32). Before the record it
looks at the programme's state: HALTED ends the parcel with one failure (log 22), ACTIVE, DRAINING and CLOSING apply it. -/
def State.reachRecord (s : State) (op : Nat → Bool)
    (apply : State → CueLoading → Programme → List Byte → Except ResultCode State) : State :=
  match s.loading with
  | none => s
  | some (.narration _ _) => s
  | some (.cueload c) =>
    match c.records with
    | [] => s
    | r :: rest =>
      if !op (recordOp r) then s
      else
        match s.prog c.prog with
        | none => { s with loading := none }.countDropped
        | some prog =>
          if prog.state = .halted then { s with loading := none }.post c.prog (haltedFailure .cueload c.ordinal)
          else
            match apply s c prog r with
            | .ok s' => s'.advanceLoader c rest
            | .error e => (s.failRecord c r e).advanceLoader c rest

/-- PLACE (R43). -/
def execPlace (s : State) : Outcome := .next (s.reachRecord (· == 1) State.applyPlace)

/-- WITHDRAW (R45). -/
def execWithdraw (s : State) : Outcome := .next (s.reachRecord (· == 2) State.applyWithdraw)

/-- CUE_RECORD_OTHER_OP (R163). -/
def execCueRecordOtherOp (s : State) : Outcome := .next (s.reachRecord (fun op => op != 1 && op != 2) State.applyOther)

/-! ### Taking an entry (R30) -/

/-- A CUELOAD is taken for an ACTIVE programme; with a record count of 0 or above 16 it is refused whole (R32). -/
def State.takeCueload (s : State) (p : Parcel) (ordinal : BitVec 32) : State :=
  let n := (byteAt p.body 1).toNat
  let track := (byteAt p.body 0).toNat
  if n = 0 ∨ 16 < n then s.post p.slot ⟨.range, .cueload, some track, none, ordinal⟩
  else { s with loading := some (.cueload ⟨p.slot, track, ordinal, (cueloadRecords p.body).getD []⟩) }

/-- What becomes of a parcel entry by its programme's state (R18, R30). -/
def State.takeParcel (s : State) (p : ProgSlot) (origin : FailureOrigin) (ordinal : BitVec 32) (applied : State) : State :=
  match s.prog p with
  | none => s.countDropped
  | some r =>
    match r.state with
    | .active => applied
    | .halted => s.post p (haltedFailure origin ordinal)
    | .draining => s.countDrainDiscard.post p (haltedFailure origin ordinal)
    | .closing => s.countDrainDiscard.post p (haltedFailure origin ordinal)

/-- A FENCE marker is answered: first-error record, count, state and halt code go into the reply, the record and the count
are cleared (R16, R156). -/
def State.answerFence (s : State) (p : ProgSlot) : State :=
  match s.prog p with
  | none => s
  | some r =>
    match r.deferred with
    | none => s
    | some d =>
      if d.kind = .fence then
        (s.modProg p fun r => { r with firstError := none, failureCount := 0, deferred := none }).answerDeferred p d (fenceFields r)
      else s

/-- LOADER_TAKE (R30): with no current entry, the head of the loader queue is taken. -/
def execLoaderTake (s : State) : Outcome :=
  match s.loading with
  | some _ => .next s
  | none =>
    match s.loaderQ with
    | [] => .next s
    | e :: rest =>
      let s := { s with loaderQ := rest }
      match e with
      | .cueload p ordinal => .next (s.takeParcel p.slot .cueload ordinal (s.takeCueload p ordinal))
      | .narration p ordinal =>
        .next (s.takeParcel p.slot .narration ordinal { s with loading := some (.narration p ordinal) })
      | .fence p _ => .next (s.answerFence p)

end Sys2Proof.Machine
end

