-- ==== Sys2Proof/Machine/Requests.lean ====
section
/-! DEFINITION. The control unit: taking a request (R149 to R151), the sixteen requests, discarding requests (R159). -/

namespace Sys2Proof.Machine

/-! ### Taking and replying -/

/-- What a taken request is answered at its taking: a result code and the fields of its reply. -/
structure Answer where
  code : ResultCode
  fields : List Byte
deriving DecidableEq, Repr

/-- The outcome of a request's work: the state, and its answer unless it is deferred. -/
abbrev Worked := State × Option Answer

/-- A refusal changes no state and its reply has no fields (R150, R151). -/
def refuse (s : State) (code : ResultCode) : Worked := (s, some ⟨code, []⟩)

/-- An immediate request that is carried out. -/
def answerDone (s : State) (fields : List Byte) : Worked := (s, some ⟨.done, fields⟩)

/-- A request that is deferred: its reserved place stays (R151). -/
def deferred (s : State) : Worked := (s, none)

/-- Whether the control unit can take a request (R150): no current request, no UNIT-RESET outstanding, a free CTL place. -/
def State.canTake (s : State) : Bool := s.fenceWaiting.isNone && s.unitReset.isNone && s.ctlFree != 0

/-- The head request leaves the queue and a CTL place is reserved for its reply at the tail (R149, R150). -/
def State.reserve (s : State) (q : Request) (rest : List Request) : State :=
  { s with requestQ := rest }.setCtl (s.egress.ctl ++ [CtlPlace.reserved q.prog])

/-- The reply of an immediate request fills the place reserved at its taking, the last one (R150, R151). -/
def State.replyTo (s : State) (q : Request) (a : Answer) : State :=
  s.setCtl (s.egress.ctl.dropLast ++ [CtlPlace.filled (replyParcel s.rx.address q.prog q.stream q.tag q.name a.code a.fields)])

/-- Take the head request if its name is one of `name`, carry it out, and reply to it unless it is deferred (R150). -/
def State.takeRequest (s : State) (name : Byte → Bool) (work : State → Request → Worked) : State :=
  match s.requestQ with
  | [] => s
  | q :: rest =>
    if s.canTake && name q.name then
      match work (s.reserve q rest) q with
      | (s', some a) => s'.replyTo q a
      | (s', none) => s'
    else s

/-- The judgement of a request by its programme's state and deferred request (R11); `inHalted` says whether HALTED takes it. -/
def State.judge (s : State) (q : Request) (inHalted : Bool) : Except ResultCode Programme :=
  match s.prog q.prog with
  | none => .error .absent
  | some r =>
    if r.deferred.isSome then .error .busy
    else
      match r.state with
      | .active => .ok r
      | .halted => if inHalted then .ok r else .error .busy
      | .draining => .error .busy
      | .closing => .error .busy

/-- A request that names a programme: judged by R11, then its parameter length is its first own check (R163, log 16). -/
def State.judged (s : State) (q : Request) (inHalted : Bool) (length : Nat) (work : Programme → Worked) : Worked :=
  match s.judge q inHalted with
  | .error code => refuse s code
  | .ok r => if q.params.length = length then work r else refuse s .range

/-! ### IDENTIFY, OPEN-PROGRAMME, SET-PROGRAMME -/

/-- IDENTIFY (R152). -/
def workIdentify (s : State) (q : Request) : Worked :=
  if q.params.length = 0 then answerDone s (identifyFields s.rx.address) else refuse s .range

/-- The record of a programme fresh from opening, with its configuration and track list (R10, R19). -/
def freshProgramme (stream : Byte) (timebase : Timebase) (threshold : Nat) (escalation : BitVec 8) (tracks : List TrackSlot) :
    Programme where
  state := .active
  stream := stream
  timebase := timebase
  threshold := threshold
  escalation := escalation
  cutLine := timebase.origin
  lastSegment := none
  audioLine := timebase.origin
  quietRun := 0
  strictRun := 0
  firstError := none
  failureCount := 0
  haltCode := none
  notice := .empty
  tracks := tracks
  counters := .zero
  deferred := none

/-- OPEN-PROGRAMME (R12). -/
def workOpenProgramme (s : State) (q : Request) : Worked :=
  match s.prog q.prog with
  | some _ => refuse s .busy
  | none =>
    let o := openParamsOf q.params
    if q.params.length ≠ 18 then refuse s .range
    else if !o.inRange then refuse s .range
    else if s.streamInUse o.stream then refuse s .range
    else answerDone (s.setProg q.prog (some (freshProgramme o.stream o.timebase o.threshold o.escalation []))) []

/-- SET-PROGRAMME (R13). -/
def workSetProgramme (s : State) (q : Request) : Worked :=
  s.judged q true 3 fun _ =>
    if 32767 < fieldAt q.params 0 2 ∨ escalationAllowed (byteAt q.params 2) = false then refuse s .range
    else
      answerDone (s.modProg q.prog fun r => { r with threshold := fieldAt q.params 0 2, escalation := byteAt q.params 2 }) []

/-! ### CLOSE-PROGRAMME, RESET-PROGRAMME -/

/-- Write a programme's deferred request (R151). -/
def State.defer (s : State) (q : Request) (kind : DeferredKind) : State :=
  s.modProg q.prog fun r => { r with deferred := some ⟨kind, q.tag, q.stream⟩ }

/-- The copy the audio path is handling becomes work in flight of its programme's drain (R18, log 23). -/
def State.holdAudio (s : State) (p : ProgSlot) : State :=
  { s with audio := s.audio.map fun w => if w.copy.prog = p then { w with inFlight := true } else w }

/-- A programme drain begins (R18). -/
def State.beginDrain (s : State) (q : Request) (state : ProgState) (kind : DeferredKind) : State :=
  ((s.modProg q.prog fun r => { r with state := state }).defer q kind).holdAudio q.prog

/-- CLOSE-PROGRAMME (R20). -/
def workCloseProgramme (s : State) (q : Request) : Worked :=
  s.judged q true 0 fun _ => deferred (s.beginDrain q .closing .closeProgramme)

/-- RESET-PROGRAMME (R19). -/
def workResetProgramme (s : State) (q : Request) : Worked :=
  s.judged q true 0 fun _ => deferred (s.beginDrain q .draining .resetProgramme)

/-! ### OPEN-TRACK, CLOSE-TRACK, LOAD-STYLE -/

/-- The record of a track just opened (R25). -/
def TrackParams.opened (tp : TrackParams) (p : ProgSlot) : Track :=
  match tp with
  | .sub stream tag reference =>
    { prog := p
      state := .active
      stream := stream
      tag := tag
      body := .sub {
        styles := .default
        reference := reference.bind trackSlotOf
        window := none
        outcome := none
        cues := [] } }
  | .ad stream tag gn gd attack release =>
    { prog := p
      state := .active
      stream := stream
      tag := tag
      body := .ad {
        gn := gn
        gd := gd
        attack := attack
        release := release
        engine := .idle
        gain := 32768
        rampStart := 32768
        rampTarget := 32768
        cues := [] } }

/-- The reference of the request is absent, or a SUB track of the programme in ACTIVE or CONCEALING (R25). -/
def State.referenceAllowed (s : State) (p : ProgSlot) (tp : TrackParams) : Bool :=
  match tp with
  | .sub _ _ (some n) =>
    match s.trackOf p n with
    | some (_, r) => r.sub?.isSome && r.state != .closing
    | none => false
  | .sub _ _ none => true
  | .ad _ _ _ _ _ _ => true

/-- Whether the programme already holds the tracks it may hold of the kind the request opens (R25). -/
def State.tracksFull (s : State) (r : Programme) (tp : TrackParams) : Bool :=
  match tp with
  | .sub _ _ _ => Config.subTracks ≤ r.tracks.countP fun t => (s.sub? t).isSome
  | .ad _ _ _ _ _ _ => Config.adTracks ≤ r.tracks.countP fun t => (s.ad? t).isSome

/-- The lowest FREE track slot (R25). -/
def State.freeTrack? (s : State) : Option TrackSlot := trackSlots.find? fun t => (s.track t).isNone

/-- The slot an OPEN-TRACK takes, or its refusal (R25). -/
def State.openTrackSlot (s : State) (p : ProgSlot) (r : Programme) (tp : TrackParams) : Except ResultCode TrackSlot :=
  if !s.referenceAllowed p tp then .error .range
  else if s.streamInUse tp.stream then .error .range
  else if s.tracksFull r tp then .error .full
  else
    match s.freeTrack? with
    | none => .error .full
    | some t => .ok t

/-- OPEN-TRACK (R25). -/
def workOpenTrack (s : State) (q : Request) : Worked :=
  s.judged q true 19 fun r =>
    match trackParamsOf q.params with
    | none => refuse s .range
    | some tp =>
      match s.openTrackSlot q.prog r tp with
      | .error code => refuse s code
      | .ok t =>
        answerDone ((s.setTrack t (some (tp.opened q.prog))).modProg q.prog fun r => { r with tracks := r.tracks ++ [t] })
          (be 1 t.val)

/-- A track whose CLOSE-TRACK is accepted: CLOSING, its window, mode and outcome absent (R26, R83). -/
def Track.closing (r : Track) : Track :=
  { r.modSub (fun b => { b with window := none, outcome := none }) with state := .closing }

/-- CLOSE-TRACK (R26). -/
def workCloseTrack (s : State) (q : Request) : Worked :=
  s.judged q true 1 fun _ =>
    match s.trackOf q.prog (byteAt q.params 0).toNat with
    | none => refuse s .absent
    | some (t, _) => deferred ((s.modTrack t Track.closing).defer q (.closeTrack t))

/-- The table a LOAD-STYLE sets: with no entry the default table (R48). -/
def styleTableOf (entries : List Style) : StyleTable := if entries.isEmpty then .default else .loaded entries

/-- LOAD-STYLE (R48); its length is 2 plus 6 for each entry of its count (R163). -/
def workLoadStyle (s : State) (q : Request) : Worked :=
  s.judged q true (2 + 6 * (byteAt q.params 1).toNat) fun _ =>
    match s.trackOf q.prog (byteAt q.params 0).toNat with
    | none => refuse s .absent
    | some (t, r) =>
      if r.state = .closing then refuse s .absent
      else if r.sub?.isNone then refuse s .range
      else if Config.styleEntries < (byteAt q.params 1).toNat then refuse s .range
      else
        match stylesOf (byteAt q.params 1).toNat (q.params.drop 2) with
        | none => refuse s .range
        | some entries => answerDone (s.modSub t fun b => { b with styles := styleTableOf entries }) []

/-! ### CONCEAL-SPAN, CONCEAL-UNTIL-RESUME (R74 to R77) -/

/-- Whether a cue runs across a window start, so that it is trimmed to it (R76). -/
def SubCue.crosses (c : SubCue) (f : Nat) : Bool := c.start < f && f < c.stop

/-- A cue trimmed to a window start (R76). -/
def SubCue.trimTo (c : SubCue) (f : Nat) : SubCue := if c.crosses f then { c with stop := f, trimmed := true } else c

/-- Whether clearing a window retires a cue: one that crosses F when F is the cut line, and one that starts in a span (R76). -/
def SubCue.clearedBy (c : SubCue) (f cutLine : Nat) (t : Option Nat) : Bool :=
  (c.crosses f && f == cutLine) || (f ≤ c.start && t.any (c.start < ·))

/-- The own cues after the window [f, t) is cleared; `t` is absent for CONCEAL-UNTIL-RESUME (R76). -/
def clearWindow (f cutLine : Nat) (t : Option Nat) (cues : List SubCue) : List SubCue :=
  (cues.filter fun c => !c.clearedBy f cutLine t).map (·.trimTo f)

/-- The cues trimmed by clearing a window (R76). -/
def trimmedBy (f cutLine : Nat) (cues : List SubCue) : Nat := cues.countP fun c => c.crosses f && f != cutLine

/-- Clear the window of a track's own cues, and count the trimmed ones (R76). -/
def State.clearOwn (s : State) (p : ProgSlot) (t : TrackSlot) (cues : List SubCue) (f cutLine : Nat) (stop : Option Nat) :
    State :=
  (s.modSub t fun b => { b with cues := clearWindow f cutLine stop cues }).countIn p fun k =>
    { k with cuesTrimmed := bump32 k.cuesTrimmed (trimmedBy f cutLine cues) }

/-- A request that completes at once: the window is written, NOTHING-TO-REPAIR, CONCEAL-DONE (R75, R77). -/
def State.concealAtOnce (s : State) (p : ProgSlot) (t : TrackSlot) (w : Window) : Worked :=
  answerDone ((s.modSub t fun b => { b with window := some w, outcome := some .nothingToRepair }).raiseConcealDone p t)
    (concealFields w .active)

/-- A request that enters CONCEALING (R77). -/
def State.concealBegins (s : State) (t : TrackSlot) (w : Window) : Worked :=
  answerDone
    (s.modTrack t fun r => { r.modSub (fun b => { b with window := some w, outcome := none }) with state := .concealing })
    (concealFields w .concealing)

/-- The tests of R74 after R11: the track of the request, or its refusal. -/
def State.concealTrack (s : State) (q : Request) (ticks : List Nat) : Except ResultCode (TrackSlot × SubTrack) :=
  match s.trackOf q.prog (byteAt q.params 0).toNat with
  | none => .error .absent
  | some (t, r) =>
    match r.sub? with
    | none => .error .range
    | some b =>
      if r.state = .concealing then .error .busy
      else if ticks.all (· ≤ maxTick) then .ok (t, b)
      else .error .range

/-- An accepted CONCEAL-SPAN with `f` as fixed (R75 to R77). -/
def State.concealSpanFrom (s : State) (p : ProgSlot) (cutLine : Nat) (t : TrackSlot) (b : SubTrack) (f stop : Nat) : Worked :=
  if stop ≤ f then s.concealAtOnce p t ⟨f, some stop, .span⟩
  else (s.clearOwn p t b.cues f cutLine (some stop)).concealBegins t ⟨f, some stop, .span⟩

/-- The start of the earliest own cue that starts at or after `f` (R77). -/
def resumeAt (f : Nat) (cues : List SubCue) : Option Nat := (cues.find? fun c => f ≤ c.start).map (·.start)

/-- An accepted CONCEAL-UNTIL-RESUME with `f` as fixed (R75 to R77). -/
def State.concealFrom (s : State) (p : ProgSlot) (cutLine : Nat) (t : TrackSlot) (b : SubTrack) (f : Nat) : Worked :=
  let s := s.clearOwn p t b.cues f cutLine none
  let x := resumeAt f (clearWindow f cutLine none b.cues)
  if x = some f then s.concealAtOnce p t ⟨f, x, .untilResume⟩ else s.concealBegins t ⟨f, x, .untilResume⟩

/-- CONCEAL-SPAN (R74 to R77). -/
def workConcealSpan (s : State) (q : Request) : Worked :=
  s.judged q false 17 fun r =>
    match s.concealTrack q [fieldAt q.params 1 8, fieldAt q.params 9 8] with
    | .error code => refuse s code
    | .ok (t, b) => s.concealSpanFrom q.prog r.cutLine t b (max (fieldAt q.params 1 8) r.cutLine) (fieldAt q.params 9 8)

/-- CONCEAL-UNTIL-RESUME (R74 to R77). -/
def workConcealUntilResume (s : State) (q : Request) : Worked :=
  s.judged q false 9 fun r =>
    match s.concealTrack q [fieldAt q.params 1 8] with
    | .error code => refuse s code
    | .ok (t, b) => s.concealFrom q.prog r.cutLine t b (max (fieldAt q.params 1 8) r.cutLine)

/-! ### FENCE -/

/-- Place a FENCE marker at the tail of the loader queue, or wait with it while the queue is full (R156). -/
def State.placeMarker (s : State) (p : ProgSlot) (tag : BitVec 16) : State :=
  if s.loaderRoom then { s with loaderQ := s.loaderQ ++ [.fence p tag], fenceWaiting := none }
  else { s with fenceWaiting := some p }

/-- FENCE (R156). -/
def workFence (s : State) (q : Request) : Worked :=
  s.judged q true 0 fun _ => deferred ((s.defer q .fence).placeMarker q.prog q.tag)

/-! ### The reads -/

/-- READ-PROGRAMME (R153). -/
def workReadProgramme (s : State) (q : Request) : Worked :=
  s.judged q true 0 fun r => answerDone s (s.programmeFields r)

/-- READ-TRACK (R154). -/
def workReadTrack (s : State) (q : Request) : Worked :=
  s.judged q true 1 fun _ =>
    match s.trackOf q.prog (byteAt q.params 0).toNat with
    | none => refuse s .absent
    | some (t, r) => answerDone s (r.fields t)

/-- The clear flag of READ-COUNTERS: bit 0 of its byte (log 14). -/
def clearFlag (q : Request) : Bool := (byteAt q.params 1).getLsbD 0

/-- READ-COUNTERS (R155); a scope other than UNIT 0 and PROGRAMME 1 is refused without the judgement of R11 (log 12). -/
def workReadCounters (s : State) (q : Request) : Worked :=
  if q.params.head? = some 1 then
    s.judged q true 2 fun r =>
      answerDone (if clearFlag q then s.countIn q.prog fun _ => .zero else s) r.counters.fields
  else if q.params.head? = some 0 ∧ q.params.length = 2 then
    answerDone (if clearFlag q then { s with counters := .zero } else s) s.unitFields
  else refuse s .range

/-! ### SET-EGRESS, UNIT-RESET -/

/-- SET-EGRESS (R146). -/
def workSetEgress (s : State) (q : Request) : Worked :=
  if q.params.length ≠ 9 then refuse s .range
  else
    match egressSettingsOf q.params with
    | none => refuse s .range
    | some x => answerDone { s with egress := { s.egress with pendingSettings := some x } } []

/-- The reserved place of a UNIT-RESET's taking becomes that of the unit's deferred request (R151). -/
def reserveForUnit (ctl : List CtlPlace) : List CtlPlace := ctl.dropLast ++ [CtlPlace.reservedForUnit]

/-- UNIT-RESET (R159): it is outstanding and the lane receiver becomes CLOSED (R138, log 6, log 17). -/
def workUnitReset (s : State) (q : Request) : Worked :=
  if q.params.length ≠ 0 then refuse s .range
  else
    deferred
      ({ s with
        unitReset := some ⟨q.tag, q.stream, q.prog, false⟩
        rx := { s.rx with closed := true, framing := .hunt false [] } }.setCtl (reserveForUnit s.egress.ctl))

/-! ### The commands -/

/-- Whether a request name is one of the sixteen (R150, R163). -/
def knownName (n : Byte) : Bool := 1 ≤ n.toNat && n.toNat ≤ 16

def execIdentify (s : State) : Outcome := .next (s.takeRequest (· == 0x01) workIdentify)
def execOpenProgramme (s : State) : Outcome := .next (s.takeRequest (· == 0x02) workOpenProgramme)
def execSetProgramme (s : State) : Outcome := .next (s.takeRequest (· == 0x03) workSetProgramme)
def execCloseProgramme (s : State) : Outcome := .next (s.takeRequest (· == 0x04) workCloseProgramme)
def execResetProgramme (s : State) : Outcome := .next (s.takeRequest (· == 0x05) workResetProgramme)
def execOpenTrack (s : State) : Outcome := .next (s.takeRequest (· == 0x06) workOpenTrack)
def execCloseTrack (s : State) : Outcome := .next (s.takeRequest (· == 0x07) workCloseTrack)
def execLoadStyle (s : State) : Outcome := .next (s.takeRequest (· == 0x08) workLoadStyle)
def execConcealSpan (s : State) : Outcome := .next (s.takeRequest (· == 0x09) workConcealSpan)
def execConcealUntilResume (s : State) : Outcome := .next (s.takeRequest (· == 0x0A) workConcealUntilResume)
def execFence (s : State) : Outcome := .next (s.takeRequest (· == 0x0B) workFence)
def execReadProgramme (s : State) : Outcome := .next (s.takeRequest (· == 0x0C) workReadProgramme)
def execReadTrack (s : State) : Outcome := .next (s.takeRequest (· == 0x0D) workReadTrack)
def execReadCounters (s : State) : Outcome := .next (s.takeRequest (· == 0x0E) workReadCounters)
def execSetEgress (s : State) : Outcome := .next (s.takeRequest (· == 0x0F) workSetEgress)
def execUnitReset (s : State) : Outcome := .next (s.takeRequest (· == 0x10) workUnitReset)

/-- UNKNOWN_REQUEST (R150): a name that is not one of the sixteen is refused with RANGE, and the reply echoes it. -/
def execUnknownRequest (s : State) : Outcome :=
  .next (s.takeRequest (fun n => !knownName n) fun s _ => refuse s .range)

/-- FENCE_MARKER_PLACED (R156): the waiting marker is placed when the loader queue has room. -/
def execFenceMarkerPlaced (s : State) : Outcome :=
  match s.fenceWaiting with
  | none => .next s
  | some p =>
    if s.loaderRoom then
      match (s.prog p).bind (·.deferred) with
      | some d => .next (s.placeMarker p d.tag)
      | none => .next { s with fenceWaiting := none }
    else .next s

/-- REQUEST_DISCARD (R159): while a UNIT-RESET is outstanding the head request is discarded and counted. -/
def execRequestDiscard (s : State) : Outcome :=
  match s.unitReset, s.requestQ with
  | some _, _ :: rest => .next { s with requestQ := rest }.countDropped
  | _, _ => .next s

end Sys2Proof.Machine
end

