-- ==== Sys2Proof/Machine/Complete.lean ====
section
/-! DEFINITION. Deferred requests that complete (R18 to R20, R26), notices (R157), the UNIT-RESET reply (R160). -/

namespace Sys2Proof.Machine

/-! ### Work in flight -/

/-- Whether the cue loader is applying a parcel of the programme (R18). -/
def State.loadingOf (s : State) (p : ProgSlot) : Bool :=
  match s.loading with
  | none => false
  | some (.cueload c) => c.prog == p
  | some (.narration q _) => q.slot == p

/-- Whether a cut buffer holds a cut of the programme (R18, R65). -/
def State.cutOf (s : State) (p : ProgSlot) : Bool := s.cuts.any fun c => c.prog == p

/-- Whether the audio path handles a copy of the programme that was in flight when its drain began (R18, log 23). -/
def State.audioInFlight (s : State) (p : ProgSlot) : Bool := s.audio.any fun w => w.copy.prog == p && w.inFlight

/-- The three kinds of work in flight of a programme have ended (R18). -/
def State.drained (s : State) (p : ProgSlot) : Bool := !s.loadingOf p && !s.cutOf p && !s.audioInFlight p

/-- Whether a SEG or MIX entry bears the programme's slot (R20). -/
def State.outputOf (s : State) (p : ProgSlot) : Bool :=
  s.egress.seg.any (fun x => x.slot == p) || s.egress.mix.any fun x => x.slot == p

/-- Whether a cut buffer holds a SUBSEG of the track (R26, R65). -/
def State.cutHolds (s : State) (t : TrackSlot) : Bool := s.cuts.any fun c => c.subsegs.any fun u => u.track == t

/-- Whether the audio path handles a copy that serves the track (R26). -/
def State.audioServes (s : State) (t : TrackSlot) : Bool := s.audio.any fun w => w.served.contains t

/-- The programme in `p` with its deferred request, if it holds one of a kind. -/
def State.deferredOf (s : State) (p : ProgSlot) : Option (Programme × Deferred) :=
  (s.prog p).bind fun r => r.deferred.map fun d => (r, d)

/-- The clips of a programme return to the pools (R19, R20, R95). -/
def State.dropClips (s : State) (p : ProgSlot) : State := { s with clips := s.clips.filter fun c => c.prog != p }

/-! ### RESET-PROGRAMME -/

/-- A track cleared by a programme reset (R19, R47, R50, R83, R103). -/
def Track.cleared (r : Track) : Track :=
  { r with
    state := if r.state = .concealing then .active else r.state
    body := match r.body with
      | .sub b => .sub { b with styles := .default, window := none, outcome := none, cues := [] }
      | .ad a => .ad { a with engine := .idle, gain := 32768, rampStart := 32768, rampTarget := 32768, cues := [] } }

/-- Clear every track among slots. -/
def State.clearTracks (s : State) (ts : List TrackSlot) : State := ts.foldl (fun s t => s.modTrack t Track.cleared) s

/-- A programme returned to a fresh opening, its configuration and track list kept (R19). -/
def Programme.restarted (r : Programme) : Programme := freshProgramme r.stream r.timebase r.threshold r.escalation r.tracks

/-- RESET_PROGRAMME_COMPLETE (R19): the drain has completed, the programme is cleared and its reply placed. -/
def execResetProgrammeComplete (p : ProgSlot) (s : State) : Outcome :=
  match s.deferredOf p with
  | none => .next s
  | some (r, d) =>
    if d.kind = .resetProgramme ∧ s.drained p then
      .next ((((s.clearTracks r.tracks).dropClips p).setProg p (some r.restarted)).answerDeferred p d [])
    else .next s

/-! ### CLOSE-PROGRAMME -/

/-- Free every track among slots (R20, R24). -/
def State.freeTracks (s : State) (ts : List TrackSlot) : State := ts.foldl (fun s t => s.setTrack t none) s

/-- CLOSE_PROGRAMME_COMPLETE (R20): drained, and every SEG and MIX entry of the slot sent; the programme becomes FREE. -/
def execCloseProgrammeComplete (p : ProgSlot) (s : State) : Outcome :=
  match s.deferredOf p with
  | none => .next s
  | some (r, d) =>
    if d.kind = .closeProgramme ∧ s.drained p ∧ s.outputOf p = false then
      .next ((((s.freeTracks r.tracks).dropClips p).setProg p none).answerDeferred p d [])
    else .next s

/-! ### CLOSE-TRACK -/

/-- A track whose reference was `t` has none (R26). -/
def Track.dropReference (r : Track) (t : TrackSlot) : Track :=
  r.modSub fun b => { b with reference := if b.reference = some t then none else b.reference }

/-- The references to a closed track are made absent in its programme's tracks (R26). -/
def State.dropReferences (s : State) (ts : List TrackSlot) (t : TrackSlot) : State :=
  ts.foldl (fun s u => s.modTrack u (·.dropReference t)) s

/-- The clip ids that a track's cues reference; those of a SUB track are none (R26). -/
def State.trackClipIds (s : State) (t : TrackSlot) : List Nat :=
  match s.ad? t with
  | some a => a.clipIds
  | none => []

/-- A track becomes FREE: its cues go, each clip they named is tested for freeing, references to it are made absent, its slot
leaves the track list (R26). -/
def State.freeTrack (s : State) (p : ProgSlot) (r : Programme) (t : TrackSlot) : State :=
  let ids := s.trackClipIds t
  let s := (s.setTrack t none).dropReferences (r.tracks.erase t) t
  let s := ids.foldl (fun s id => s.freeingTest p id) s
  s.modProg p fun r => { r with tracks := r.tracks.erase t, deferred := none }

/-- CLOSE_TRACK_COMPLETE (R26): no cut buffer holds a SUBSEG of the track and no handled copy serves it. -/
def execCloseTrackComplete (p : ProgSlot) (s : State) : Outcome :=
  match s.deferredOf p with
  | none => .next s
  | some (r, d) =>
    match d.kind with
    | .closeTrack t =>
      if s.cutHolds t || s.audioServes t then .next s
      else .next ((s.freeTrack p r t).answerDeferred p d [])
    | .closeProgramme => .next s
    | .resetProgramme => .next s
    | .fence => .next s

/-! ### Notices -/

/-- The lowest programme slot whose notice slot is not empty (R157). -/
def State.nextNotice? (s : State) : Option ProgSlot := progSlots.find? fun p => (s.prog p).any fun r => !r.notice.isEmpty

/-- NOTICE_EMISSION (R157): no UNIT-RESET outstanding and 5 free CTL places; the slot goes into a NOTICE and is left empty. -/
def execNoticeEmission (s : State) : Outcome :=
  if s.unitReset.isSome || s.ctlFree < Config.noticeRoom then .next s
  else
    match s.nextNotice? with
    | none => .next s
    | some p =>
      match s.prog p with
      | none => .next s
      | some r =>
        .next ((s.modProg p fun r => { r with notice := .empty }).setCtl
          (s.egress.ctl ++ [CtlPlace.filled (noticeParcel s.rx.address p r)]))

/-! ### The UNIT-RESET reply -/

/-- The work of the unit has ended, so that the UNIT-RESET reply is placed (R160). -/
def State.workEnded (s : State) : Bool :=
  s.rx.buffer.isEmpty && s.loaderQ.isEmpty && s.markQ.isEmpty && s.audioQ.isEmpty && s.requestQ.isEmpty
    && s.loading.isNone && s.audio.isNone && s.fenceWaiting.isNone && s.cuts.isEmpty
    && progSlots.all (fun p => (s.prog p).all fun r => r.deferred.isNone)
    && s.egress.thru.isEmpty && s.egress.seg.isEmpty && s.egress.mix.isEmpty

/-- The UNIT-RESET reply: DONE, with the ingress ordinal reached (R160). -/
def State.unitResetReply (s : State) (u : UnitReset) : Parcel :=
  replyParcel s.rx.address u.prog u.stream u.tag 0x10 .done (be 4 s.rx.ordinal.toNat)

/-- UNIT_RESET_REPLY (R160): the reply fills its reserved place, once. -/
def execUnitResetReply (s : State) : Outcome :=
  match s.unitReset with
  | none => .next s
  | some u =>
    if !u.placed && s.workEnded then
      .next ({ s with unitReset := some { u with placed := true } }.setCtl
        (fillPlace .reservedForUnit (.unitResetReply (s.unitResetReply u)) s.egress.ctl))
    else .next s

end Sys2Proof.Machine
end

