-- ==== Sys2Proof/Machine/Cutter.lean ====
section
/-! DEFINITION. The segment cutter: marks (R53, R54), the take (R56 to R64, R80 to R82), the cut buffers (R65, R66). -/

namespace Sys2Proof.Machine

/-! ### Entries of one track -/

/-- A cue with the interval it fills in the segment, before it becomes an entry (R58, R59, R80). -/
structure Candidate where
  own : Bool
  cue : SubCue
  a : Nat
  z : Nat
  contIn : Bool
  contOut : Bool
deriving DecidableEq, Repr

/-- The merged order: clipped start, own before concealment, cue id (R59). -/
def Candidate.before (x y : Candidate) : Bool :=
  x.a < y.a || (x.a == y.a && ((x.own && !y.own) || (x.own == y.own && x.cue.id < y.cue.id)))

/-- An own cue clipped to [s, e) (R58, R61). -/
def ownCandidate (s e : Nat) (c : SubCue) : Candidate where
  own := true
  cue := c
  a := max c.start s
  z := min c.stop e
  contIn := c.start < s
  contOut := e < c.stop

/-- The own cues that overlap [s, e), in list order (R58). -/
def ownCandidates (s e : Nat) (cues : List SubCue) : List Candidate :=
  (cues.filter fun c => c.start < e && s < c.stop).map (ownCandidate s e)

/-- The smaller of a tick and a window end; an unresolved end bounds nothing (R80). -/
def capAt (x : Option Nat) (t : Nat) : Nat :=
  match x with
  | some x => min x t
  | none => t

/-- The beginning of the window part [F, X) ∩ [S, E) (R80). -/
def Window.partStart (w : Window) (s : Nat) : Nat := max w.f s

/-- The end of the window part (R80). -/
def Window.partEnd (w : Window) (e : Nat) : Nat := capAt w.x e

/-- Whether the window part of a segment is not empty (R80). -/
def Window.meets (w : Window) (s e : Nat) : Bool := w.partStart s < w.partEnd e

/-- A reference cue clipped to the window part; its flags are judged against its part within [F, X) (R61, R80). -/
def concealCandidate (w : Window) (s e : Nat) (c : SubCue) : Candidate where
  own := false
  cue := c
  a := max c.start (w.partStart s)
  z := min c.stop (w.partEnd e)
  contIn := max c.start w.f < s
  contOut := e < capAt w.x c.stop

/-- The reference cues that overlap the window part (R80). -/
def concealCandidates (w : Window) (s e : Nat) (cues : List SubCue) : List Candidate :=
  (cues.filter fun c => c.start < w.partEnd e && w.partStart s < c.stop).map (concealCandidate w s e)

/-- A style index looked up in a table, with whether it was defaulted (R49). -/
def StyleTable.resolve (table : StyleTable) (index : Nat) : Style × Bool :=
  match table.entries[index]? with
  | some x => (x, false)
  | none => (table.entries.headD ⟨.centre, .bottom, 0, .box, .normal, false⟩, true)

/-- The entry a candidate makes, its style resolved in `table` (R61, R62). -/
def Candidate.entry (x : Candidate) (s : Nat) (table : StyleTable) : Entry where
  id := x.cue.id
  relStart := x.a - s
  relEnd := x.z - s
  region := x.cue.region
  style := (table.resolve x.cue.style).1
  flags := {
    contIn := x.contIn
    contOut := x.contOut
    trimmed := x.cue.trimmed
    forced := x.cue.forced
    concealed := !x.own
    styleDefaulted := (table.resolve x.cue.style).2 }
  lines := x.cue.lines

/-! ### One track's part of a take -/

/-- A SUB track of a programme with its slot and its kind-specific fields. -/
structure SubOf where
  slot : TrackSlot
  track : Track
  sub : SubTrack
deriving DecidableEq, Repr

/-- The SUB tracks among slots, in order. -/
def State.subsOf (s : State) (ts : List TrackSlot) : List SubOf :=
  ts.filterMap fun t =>
    match s.track t with
    | none => none
    | some r => r.sub?.map fun b => ⟨t, r, b⟩

/-- The selected tracks of a cut: SUB tracks in ACTIVE or CONCEALING, in track-list order (R57). -/
def State.selected (s : State) (ts : List TrackSlot) : List SubOf := (s.subsOf ts).filter fun x => x.track.state != .closing

/-- The window part a CONCEALING track fills in [S, E), if it is not empty (R80). -/
def SubOf.fillWindow (x : SubOf) (m : Mark) : Option Window :=
  if x.track.state = .concealing then x.sub.window.filter fun w => w.meets m.s m.e else none

/-- The reference track able to fill a window: present and ACTIVE at the beginning of the take (R80, R81). -/
def State.fillingReference (s : State) (x : SubOf) : Option SubTrack :=
  match x.sub.reference with
  | none => none
  | some t =>
    match s.track t with
    | none => none
    | some r => if r.state = .active then r.sub? else none

/-- What a take decides for one selected track: its SUBSEG, the ids of the own cues that gave kept entries, and the number of
entries dropped (R60, R62). -/
structure TrackCut where
  seg : SubSeg
  kept : List Nat
  dropped : Nat
deriving DecidableEq, Repr

/-- The concealment candidates of a track with the table they are resolved in (R58, R80). -/
def State.concealmentOf (s : State) (x : SubOf) (m : Mark) : List Candidate × StyleTable :=
  match x.fillWindow m, s.fillingReference x with
  | some w, some ref => (concealCandidates w m.s m.e ref.cues, ref.styles)
  | _, _ => ([], x.sub.styles)

/-- The merged order of a track's own and concealment entries (R59). -/
def State.mergedOf (s : State) (x : SubOf) (m : Mark) : List Candidate :=
  sortBy Candidate.before (ownCandidates m.s m.e x.sub.cues ++ (s.concealmentOf x m).1)

/-- The table an entry is resolved in: the own track's or the reference's (R62). -/
def State.tableFor (s : State) (x : SubOf) (m : Mark) (y : Candidate) : StyleTable :=
  if y.own then x.sub.styles else (s.concealmentOf x m).2

/-- Whether a style table was loaded (R67). -/
def StyleTable.isLoaded : StyleTable → Bool
  | .default => false
  | .loaded _ => true

/-- One selected track's part of the take (R58 to R62, R67, R80, R81). -/
def State.cutTrack (s : State) (m : Mark) (x : SubOf) : TrackCut where
  seg := {
    track := x.slot
    stream := x.track.stream
    tag := x.track.tag
    k := m.k
    start := m.s
    length := m.e - m.s
    styleLoaded := x.sub.styles.isLoaded
    concealedGap := (x.fillWindow m).isSome && (s.fillingReference x).isNone
    overflow := decide (Config.subsegEntries < (s.mergedOf x m).length)
    entries := ((s.mergedOf x m).take Config.subsegEntries).map fun y => y.entry m.s (s.tableFor x m y) }
  kept := (((s.mergedOf x m).take Config.subsegEntries).filter (·.own)).map (·.cue.id)
  dropped := (s.mergedOf x m).length - Config.subsegEntries

/-! ### The take -/

/-- The own cues that a gap retires, of the selected tracks (R56). -/
def skippedBy (m : Mark) (xs : List SubOf) : Nat := (xs.map fun x => x.sub.cues.countP (·.stop ≤ m.s)).sum

/-- A list after a take: own cues that gave kept entries are emitted, cues that end at or before E are retired (R63). -/
def SubTrack.tidy (b : SubTrack) (kept : List Nat) (e : Nat) : SubTrack :=
  { b with cues := (b.cues.filter fun c => e < c.stop).map fun c => if kept.contains c.id then { c with emitted := true } else c }

/-- The ids kept for a track among the parts of a take; none for a track passed over (R63). -/
def keptFor (cuts : List TrackCut) (t : TrackSlot) : List Nat :=
  match cuts.find? fun c => c.seg.track == t with
  | some c => c.kept
  | none => []

/-- Tidy the list of every SUB track of the programme, CLOSING ones included (R63). -/
def State.tidyTracks (s : State) (ts : List TrackSlot) (cuts : List TrackCut) (e : Nat) : State :=
  ts.foldl (fun s t => s.modSub t fun b => b.tidy (keptFor cuts t) e) s

/-- The programme record after a take: gap counts and SEGMENT-GAP (R56), cut line, segment number, counters (R60, R64). -/
def Programme.afterTake (r : Programme) (m : Mark) (skipped dropped : Nat) : Programme :=
  { r with
    cutLine := m.e
    lastSegment := some m.k
    notice := { r.notice with
      segmentGap := r.notice.segmentGap || (decide (r.cutLine < m.s) && r.lastSegment.isSome) }
    counters := { r.counters with
      cuesSkipped := if r.cutLine < m.s then bump32 r.counters.cuesSkipped skipped else r.counters.cuesSkipped
      segmentsCut := bump32 r.counters.segmentsCut 1
      entriesOverflowed := bump32 r.counters.entriesOverflowed dropped } }

/-- Post one FULL for each track whose entries overflowed, in track-list order (R60). -/
def State.postOverflows (s : State) (m : Mark) (cuts : List TrackCut) : State :=
  (cuts.filter (·.seg.overflow)).foldl
    (fun s c => s.post m.prog ⟨.full, .segmark, some c.seg.track.val, some m.k, m.ordinal⟩) s

/-- Whether a CONCEALING track's window is resolved at or below a cut line (R82). -/
def State.concealed (s : State) (t : TrackSlot) (e : Nat) : Bool :=
  (s.track t).any fun r => r.state == .concealing && r.sub?.any fun b => b.window.any (·.reached e)

/-- The completion test of each CONCEALING track, in track-list order (R64, R82). -/
def State.completeWindows (s : State) (p : ProgSlot) (ts : List TrackSlot) (e : Nat) : State :=
  ts.foldl (fun s t => if s.concealed t e then s.completeConceal p t else s) s

/-- Fill a cut buffer with the parts of a take; with no selected track it stays FREE (R65, R68). -/
def State.fillBuffer (s : State) (p : ProgSlot) (cuts : List TrackCut) : State :=
  if cuts.isEmpty then s else { s with cuts := s.cuts ++ [⟨p, cuts.map (·.seg)⟩] }

/-- The take (R57): every list is read as it stands at the beginning. -/
def State.take (s : State) (r : Programme) (m : Mark) : State :=
  let xs := s.selected r.tracks
  let cuts := xs.map (s.cutTrack m)
  let s := s.tidyTracks r.tracks cuts m.e
  let s := s.modProg m.prog fun r => r.afterTake m (skippedBy m xs) (cuts.map (·.dropped)).sum
  let s := s.postOverflows m cuts
  let s := s.completeWindows m.prog r.tracks m.e
  s.fillBuffer m.prog cuts

/-! ### Marks -/

/-- Whether a mark passes the four checks of R54. -/
def Mark.passes (m : Mark) (r : Programme) : Bool :=
  m.s ≤ maxTick && m.e ≤ maxTick && m.s < m.e && m.e - m.s ≤ 5400000 && r.lastSegment.all (· < m.k) && r.cutLine ≤ m.s

/-- Check the mark of an ACTIVE programme and cut it, or refuse it with one failure (R54). -/
def State.judgeMark (s : State) (r : Programme) (m : Mark) : State :=
  if m.passes r then s.take r m else s.post m.prog ⟨.range, .segmark, none, some m.k, m.ordinal⟩

/-- MARK_TAKEN (R53): an ACTIVE programme's mark waits for a FREE cut buffer, any other mark does not. -/
def execMarkTaken (s : State) : Outcome :=
  match s.markQ with
  | [] => .next s
  | m :: rest =>
    let s' := { s with markQ := rest }
    match s.prog m.prog with
    | none => .next s'.countDropped
    | some r =>
      if r.stream ≠ m.stream then .next s'.countDropped
      else
        match r.state with
        | .halted => .next s'
        | .draining => .next s'.countDrainDiscard
        | .closing => .next s'.countDrainDiscard
        | .active => if s.cuts.length < Config.cutBuffers then .next (s'.judgeMark r m) else .next s

/-! ### Placing SUBSEG parcels -/

/-- The cut buffers after the first SUBSEG of the QUEUING one has been placed: with its last one it becomes FREE (R65). -/
def cutsAfter (p : ProgSlot) (left : List SubSeg) (rest : List Cut) : List Cut :=
  if left.isEmpty then rest else ⟨p, left⟩ :: rest

/-- SUBSEG_PLACED (R66): the QUEUING buffer places its next SUBSEG when the SEG queue has room. -/
def execSubsegPlaced (s : State) : Outcome :=
  match s.cuts with
  | [] => .next s
  | c :: rest =>
    match c.subsegs with
    | [] => .next { s with cuts := rest }
    | u :: left =>
      if s.egress.seg.length < Config.segQueue then
        .next { s with
          egress := { s.egress with seg := s.egress.seg ++ [subsegParcel s.rx.address c.prog u] }
          cuts := cutsAfter c.prog left rest }
      else .next s

end Sys2Proof.Machine
end

