-- ==== Sys2Proof/Machine/Events.lean ====
section
/-! DEFINITION. The event engine: one step of one AD track (R104 to R113). -/

namespace Sys2Proof.Machine

/-! ### DONE and MISSED (R112) -/

/-- A current cue becomes DONE: counted, and its clip tested for freeing. -/
def State.cueDone (s : State) (p : ProgSlot) (clip : Nat) : State :=
  (s.countIn p fun k => { k with eventsDone := bump32 k.eventsDone 1 }).freeingTest p clip

/-- A cue leaves an AD track's list. -/
def AdTrack.remove (a : AdTrack) (id : Nat) : AdTrack := { a with cues := a.cues.filter fun c => c.id != id }

/-- A waiting cue becomes MISSED: it leaves the list, is counted and posted, raises EVENT-MISSED, and its clip is tested for
freeing, in this order. -/
def State.cueMissed (s : State) (p : ProgSlot) (t : TrackSlot) (code : ResultCode) (ordinal : BitVec 32) (c : AdCue) : State :=
  let s := s.modAd t fun a => a.remove c.id
  let s := s.countIn p fun k => { k with eventsMissed := bump32 k.eventsMissed 1 }
  let s := s.post p ⟨code, .event, some t.val, some c.id, ordinal⟩
  (s.raiseEventMissed p t).freeingTest p c.clip

/-- The waiting cues other than the head whose latest tick is at or below `tick` (R105). -/
def AdTrack.overdue (a : AdTrack) (tick : Nat) : List AdCue := a.cues.tail.filter fun c => c.latest ≤ tick

/-- The first part of a step (R105). -/
def State.missOverdue (s : State) (p : ProgSlot) (t : TrackSlot) (ordinal : BitVec 32) (tick : Nat) : State :=
  match s.ad? t with
  | none => s
  | some a => (a.overdue tick).foldl (fun s c => s.cueMissed p t .late ordinal c) s

/-! ### The head (R106 to R108) -/

/-- What an examined head does. -/
inductive HeadVerdict where
  | waits
  | arms
  | triggers
  | missed
deriving DecidableEq, Repr

/-- Whether the run a cue uses is at or above its hold (R107). -/
def AdCue.held (h : AdCue) (r : Programme) : Bool := h.hold ≤ (if h.strict then r.strictRun else r.quietRun)

/-- The judgement of a head by R106 to R108, its clip READY or not. -/
def AdCue.verdict (h : AdCue) (r : Programme) (ready : Bool) (tick : Nat) : HeadVerdict :=
  if h.state = .pending ∧ tick < h.earliest then .waits
  else if ready && h.held r then .triggers
  else if tick < h.latest then .arms
  else if ready then .triggers
  else .missed

/-- The head becomes ARMED and waits (R106, R108). -/
def AdTrack.armHead (a : AdTrack) : AdTrack :=
  match a.cues with
  | [] => a
  | h :: rest => { a with cues := { h with state := .armed } :: rest }

/-- The current cue a triggered cue becomes (R103). -/
def AdCue.toCurrent (h : AdCue) : CurrentCue := ⟨h.id, h.clip, h.strict, h.gn, h.gd⟩

/-- The trigger (R109). -/
def AdTrack.trigger (a : AdTrack) (h : AdCue) : AdTrack :=
  let duck := a.duckGain h.toCurrent
  if a.attack = 0 then
    { a with cues := a.cues.tail, engine := .play 0 h.toCurrent, gain := duck, rampStart := duck, rampTarget := duck }
  else { a with cues := a.cues.tail, engine := .attack a.attack h.toCurrent, rampStart := a.gain, rampTarget := duck }

/-- The engine enters IDLE (R110, R111). -/
def AdTrack.toIdle (a : AdTrack) : AdTrack := { a with engine := .idle, gain := 32768, rampStart := 32768, rampTarget := 32768 }

/-- The verdict on the head of a track's list; with an empty list there is none (R106). -/
def State.headVerdict (s : State) (p : ProgSlot) (r : Programme) (a : AdTrack) (tick : Nat) : Option (AdCue × HeadVerdict) :=
  a.cues.head?.map fun h => (h, h.verdict r (s.clipReady p h.clip) tick)

/-! ### The engine -/

/-- RELEASE with no trigger: one parcel less, and IDLE with the cue DONE when none is left (R111). -/
def State.goOnRelease (s : State) (p : ProgSlot) (t : TrackSlot) (left : Nat) (c : CurrentCue) : State :=
  if left ≤ 1 then (s.modAd t AdTrack.toIdle).cueDone p c.clip
  else s.modAd t fun a => { a with engine := .release (left - 1) c }

/-- ATTACK: one parcel less, and PLAY at page 0 when none is left (R110). -/
def State.goOnAttack (s : State) (t : TrackSlot) (left : Nat) (c : CurrentCue) : State :=
  s.modAd t fun a => { a with engine := if left ≤ 1 then .play 0 c else .attack (left - 1) c }

/-- Whether the page at an index is the last of a cue's clip (R110). A clip that is not there has no later page (log 20). -/
def State.lastPage (s : State) (p : ProgSlot) (c : CurrentCue) (page : Nat) : Bool :=
  match s.clip? p c.clip with
  | some k => k.declared ≤ page + 1
  | none => true

/-- PLAY: the next page, or RELEASE, or IDLE with the cue DONE when the release is 0 (R110). -/
def State.goOnPlay (s : State) (p : ProgSlot) (t : TrackSlot) (a : AdTrack) (page : Nat) (c : CurrentCue) : State :=
  if s.lastPage p c page then
    if a.release = 0 then (s.modAd t AdTrack.toIdle).cueDone p c.clip
    else s.modAd t fun a => { a with engine := .release a.release c, rampStart := a.gain, rampTarget := 32768 }
  else s.modAd t fun a => { a with engine := .play (page + 1) c }

/-- IDLE: the head is examined (R106 to R109). -/
def State.stepIdle (s : State) (p : ProgSlot) (t : TrackSlot) (r : Programme) (a : AdTrack) (ordinal : BitVec 32)
    (tick : Nat) : State :=
  match s.headVerdict p r a tick with
  | none => s
  | some (_, .waits) => s
  | some (_, .arms) => s.modAd t AdTrack.armHead
  | some (h, .triggers) => s.modAd t fun a => a.trigger h
  | some (h, .missed) => s.cueMissed p t .absent ordinal h

/-- RELEASE: the head is examined; a trigger makes the releasing cue DONE, else the release goes on (R111). -/
def State.stepRelease (s : State) (p : ProgSlot) (t : TrackSlot) (r : Programme) (a : AdTrack) (ordinal : BitVec 32)
    (tick : Nat) (left : Nat) (c : CurrentCue) : State :=
  match s.headVerdict p r a tick with
  | none => s.goOnRelease p t left c
  | some (_, .waits) => s.goOnRelease p t left c
  | some (_, .arms) => (s.modAd t AdTrack.armHead).goOnRelease p t left c
  | some (h, .triggers) => (s.modAd t fun a => a.trigger h).cueDone p c.clip
  | some (h, .missed) => (s.cueMissed p t .absent ordinal h).goOnRelease p t left c

/-- The second part of a step (R104). -/
def State.actEngine (s : State) (p : ProgSlot) (t : TrackSlot) (ordinal : BitVec 32) (tick : Nat) : State :=
  match s.prog p, s.ad? t with
  | some r, some a =>
    match a.engine with
    | .idle => s.stepIdle p t r a ordinal tick
    | .attack left c => s.goOnAttack t left c
    | .play page c => s.goOnPlay p t a page c
    | .release left c => s.stepRelease p t r a ordinal tick left c
  | _, _ => s

/-- One step of an AD track (R104). -/
def State.stepTrack (s : State) (p : ProgSlot) (t : TrackSlot) (ordinal : BitVec 32) (tick : Nat) : State :=
  (s.missOverdue p t ordinal tick).actEngine p t ordinal tick

/-- Whether the programme of the current parcel is HALTED, so that its step is not made (R99). -/
def State.haltedAt (s : State) (p : ProgSlot) : Bool := (s.prog p).any fun r => r.state == .halted

/-- EVENT_STEP (R99, R104): when every AD-AUDIO of the current parcel has been placed, the next served track is stepped; the
parcel ends after its last step, made or not. -/
def execEventStep (s : State) : Outcome :=
  match s.audio with
  | none => .next s
  | some w =>
    if !w.toRender.isEmpty || w.rendered.isSome then .next s
    else
      match w.toStep with
      | [] => .next s
      | t :: rest =>
        let s' := s.continueAudio { w with toStep := rest }
        if s.haltedAt w.copy.prog then .next s' else .next (s'.stepTrack w.copy.prog t w.copy.ordinal w.tick)

end Sys2Proof.Machine
end

