-- ==== Sys2Proof/Machine/Narration.lean ====
section
/-! DEFINITION. The clip store (R85 to R91): one NARRATION page applied in one step. -/

namespace Sys2Proof.Machine

/-- The first test of R88, passed. -/
def PageLoad.inRange (g : PageLoad) : Bool :=
  g.clip != 0 && g.declared != 0 && g.declared ≤ Config.pagesPerClip && g.index < g.declared && g.valid != 0 && g.valid ≤ 480
    && (g.index + 1 == g.declared || g.valid == 480)

/-- Whether the page at an index is present in a clip (R85). -/
def Clip.present (c : Clip) (i : Nat) : Bool := (c.pages.getD i none).isSome

/-- The result of the tests of R88, in their order; none when the page passes. -/
def State.pageRefusal (s : State) (p : ProgSlot) (g : PageLoad) : Option ResultCode :=
  if !g.inRange then some .range
  else
    match s.clip? p g.clip with
    | some c =>
      if c.declared ≠ g.declared then some .range
      else if s.playing p g.clip then some .late
      else if !c.present g.index && s.freePages == 0 then some .full
      else none
    | none =>
      if s.freeClips == 0 then some .full
      else if s.freePages == 0 then some .full
      else none

/-- A clip with a page stored at its index, and the valid samples of the last page with it (R89). -/
def Clip.store (c : Clip) (g : PageLoad) : Clip :=
  { c with
    pages := c.pages.set g.index (some g.samples)
    lastValid := if g.index + 1 = g.declared then some g.valid else c.lastValid }

/-- The record a clip's first page takes: every index absent (R89). -/
def newClip (p : ProgSlot) (g : PageLoad) : Clip := ⟨p, g.clip, g.declared, List.replicate g.declared none, none⟩

/-- A page that passes R88 is stored (R89). -/
def State.storePage (s : State) (p : ProgSlot) (g : PageLoad) : State :=
  match s.clip? p g.clip with
  | some _ => { s with clips := s.clips.map fun c => if c.isOf p g.clip then c.store g else c }
  | none => { s with clips := s.clips ++ [(newClip p g).store g] }

/-- A page is tested and stored, or refused with a posted failure (R88, R89, R91). -/
def State.applyPage (s : State) (p : ProgSlot) (g : PageLoad) (ordinal : BitVec 32) : State :=
  match s.pageRefusal p g with
  | some code => s.post p ⟨code, .narration, none, some g.clip, ordinal⟩
  | none => s.storePage p g

/-- NARRATION_PAGE (R87): the loader's current page is applied by the state its programme has now. -/
def execNarrationPage (s : State) : Outcome :=
  match s.loading with
  | none => .next s
  | some (.cueload _) => .next s
  | some (.narration q ordinal) =>
    let s := { s with loading := none }
    match s.prog q.slot with
    | none => .next s.countDropped
    | some r =>
      match r.state with
      | .halted => .next (s.post q.slot ⟨.halted, .narration, none, some (pageOf q.body).clip, ordinal⟩)
      | .active => .next (s.applyPage q.slot (pageOf q.body) ordinal)
      | .draining => .next (s.applyPage q.slot (pageOf q.body) ordinal)
      | .closing => .next (s.applyPage q.slot (pageOf q.body) ordinal)

end Sys2Proof.Machine
end

