-- ==== Sys2Proof/Machine/Dispatch.lean ====
section
/-! DEFINITION. One arm for each command: a direct call of its meaning. -/

namespace Sys2Proof.Machine

def exec (i : Instr) (s : State) : Host.Outcome State Fault Refusal :=
  match i with
  | .powerOn straps => Sys2Proof.Machine.execPowerOn straps s
  | .resetPin straps => Sys2Proof.Machine.execResetPin straps s
  | .headerAccepted bytes => Sys2Proof.Machine.execHeaderAccepted bytes s
  | .headerFailure bytes => Sys2Proof.Machine.execHeaderFailure bytes s
  | .overrun bytes => Sys2Proof.Machine.execOverrun bytes s
  | .takenWhole bytes => Sys2Proof.Machine.execTakenWhole bytes s
  | .routing => Sys2Proof.Machine.execRouting s
  | .egressCredit => Sys2Proof.Machine.execEgressCredit s
  | .egressCreditRestart => Sys2Proof.Machine.execEgressCreditRestart s
  | .grant => Sys2Proof.Machine.execGrant s
  | .parcelLeft straps => Sys2Proof.Machine.execParcelLeft straps s
  | .loaderTake => Sys2Proof.Machine.execLoaderTake s
  | .place => Sys2Proof.Machine.execPlace s
  | .withdraw => Sys2Proof.Machine.execWithdraw s
  | .narrationPage => Sys2Proof.Machine.execNarrationPage s
  | .markTaken => Sys2Proof.Machine.execMarkTaken s
  | .subsegPlaced => Sys2Proof.Machine.execSubsegPlaced s
  | .audioTake => Sys2Proof.Machine.execAudioTake s
  | .adAudioPlaced => Sys2Proof.Machine.execAdAudioPlaced s
  | .eventStep => Sys2Proof.Machine.execEventStep s
  | .identify => Sys2Proof.Machine.execIdentify s
  | .openProgramme => Sys2Proof.Machine.execOpenProgramme s
  | .setProgramme => Sys2Proof.Machine.execSetProgramme s
  | .closeProgramme => Sys2Proof.Machine.execCloseProgramme s
  | .resetProgramme => Sys2Proof.Machine.execResetProgramme s
  | .openTrack => Sys2Proof.Machine.execOpenTrack s
  | .closeTrack => Sys2Proof.Machine.execCloseTrack s
  | .loadStyle => Sys2Proof.Machine.execLoadStyle s
  | .concealSpan => Sys2Proof.Machine.execConcealSpan s
  | .concealUntilResume => Sys2Proof.Machine.execConcealUntilResume s
  | .fence => Sys2Proof.Machine.execFence s
  | .fenceMarkerPlaced => Sys2Proof.Machine.execFenceMarkerPlaced s
  | .readProgramme => Sys2Proof.Machine.execReadProgramme s
  | .readTrack => Sys2Proof.Machine.execReadTrack s
  | .readCounters => Sys2Proof.Machine.execReadCounters s
  | .setEgress => Sys2Proof.Machine.execSetEgress s
  | .unitReset => Sys2Proof.Machine.execUnitReset s
  | .unknownRequest => Sys2Proof.Machine.execUnknownRequest s
  | .requestDiscard => Sys2Proof.Machine.execRequestDiscard s
  | .resetProgrammeComplete p => Sys2Proof.Machine.execResetProgrammeComplete p s
  | .closeProgrammeComplete p => Sys2Proof.Machine.execCloseProgrammeComplete p s
  | .closeTrackComplete p => Sys2Proof.Machine.execCloseTrackComplete p s
  | .noticeEmission => Sys2Proof.Machine.execNoticeEmission s
  | .unitResetReply => Sys2Proof.Machine.execUnitResetReply s
  | .cueRecordOtherOp => Sys2Proof.Machine.execCueRecordOtherOp s

end Sys2Proof.Machine
end

