-- ==== Sys2Proof/Safety.lean ====
section
/-! DEFINITION. What every state of the part keeps, and the two pictures the statements are written in: the part as a reset
leaves it, and a request answered at its taking. -/

namespace Sys2Proof.Machine

/-! ### Pictures -/

/-- The part as power-on, the reset pin and a unit reset leave it, every value written out (R10, R23, R28, R50, R71, R96, R115,
R138, R148, R161), with what the lanes have carried and the commands that wait. -/
def freshPart (straps : BitVec 4) (left : List Sent) (returned : List CreditSignal) (pending : List Instr) : State where
  rx := {
    closed := false
    framing := .hunt false []
    buffer := []
    credit := 32
    ordinal := 0
    address := straps }
  counters := {
    taken := 0
    passed := 0
    consumed := 0
    dropped := 0
    headerFailures := 0
    bodyFailures := 0
    resyncs := 0
    overruns := 0
    drainDiscards := 0 }
  progs := Vector.replicate 16 none
  tracks := Vector.replicate 64 none
  clips := []
  loaderQ := []
  loading := none
  markQ := []
  cuts := []
  audioQ := []
  audio := none
  requestQ := []
  fenceWaiting := none
  unitReset := none
  egress := {
    thru := []
    seg := []
    mix := []
    ctl := []
    grant := none
    credit := 0
    settings := ⟨.rotate, ⟨.single, .single, .single, .single⟩⟩
    pendingSettings := none
    passOver := ⟨0, 0, 0, 0⟩
    last := .thru }
  lanes := ⟨left, returned⟩
  pending := pending

/-- The control unit can take the head request `q`, whose name is `name`: nothing outstanding, one of the 16 CTL places free (R150). -/
def CanTake (s : State) (q : Request) (rest : List Request) (name : Byte) : Prop :=
  s.requestQ = q :: rest ∧ q.name = name ∧ s.fenceWaiting = none ∧ s.unitReset = none ∧ s.egress.ctl.length < 16

/-- The state after request `q` has left its queue and its reply has taken a CTL place at the tail (R150, R151). -/
def State.replied (s : State) (q : Request) (rest : List Request) (code : ResultCode) (fields : List Byte) : State :=
  { s with
    requestQ := rest
    egress := { s.egress with
      ctl := s.egress.ctl ++ [.filled (replyParcel s.rx.address q.prog q.stream q.tag q.name code fields)] } }

/-- The state after request `q` has left its queue and its reserved CTL place stands at the tail (R150, R151). -/
def State.promised (s : State) (q : Request) (rest : List Request) : State :=
  { s with requestQ := rest, egress := { s.egress with ctl := s.egress.ctl ++ [.reserved q.prog] } }

/-- The state after the head has left the ingress buffer: an OPEN receiver returns one credit, a CLOSED one none (R129, R132, R138). -/
def State.unbuffered (s : State) (rest : List IngressEntry) : State :=
  { s with
    rx := { s.rx with buffer := rest, credit := if s.rx.closed = true then s.rx.credit else s.rx.credit + 1 }
    lanes := { s.lanes with
      returned := if s.rx.closed = true then s.lanes.returned else s.lanes.returned ++ [.credit] } }

/-- The state after the head has been passed to THRU unchanged and counted, and has left the buffer (R132, R137). -/
def State.passed (s : State) (e : IngressEntry) (rest : List IngressEntry) : State :=
  { s.unbuffered rest with
    egress := { s.egress with thru := s.egress.thru ++ [e.parcel] }
    counters := { s.counters with passed := min 4294967295 (s.counters.passed + 1) } }

/-- The unit counter of parcels dropped increased by 1 (R137). -/
def State.oneDropped (s : State) : State :=
  { s with counters := { s.counters with dropped := min 4294967295 (s.counters.dropped + 1) } }

/-- The unit counter of discards in drain increased by 1 (R137). -/
def State.oneDiscarded (s : State) : State :=
  { s with counters := { s.counters with drainDiscards := min 4294967295 (s.counters.drainDiscards + 1) } }

/-- The cue loader's current entry after a record: the records left, or none with the last (R32). -/
def leftToLoad (c : CueLoading) (rest : List (List Byte)) : Option Loading :=
  if rest = [] then none else some (.cueload { c with records := rest })

/-- The cue loader has reached record `rec` of a CUELOAD of a programme `r` that is not HALTED (R32). -/
def AtRecord (s : State) (c : CueLoading) (rec : List Byte) (rest : List (List Byte)) (r : Programme) : Prop :=
  s.loading = some (.cueload c) ∧ c.records = rec :: rest ∧ s.prog c.prog = some r ∧ r.state ≠ .halted

/-- The record passes the first three tests of R38 for the track `x` in slot `t`. -/
def RecordFits (s : State) (c : CueLoading) (rec : List Byte) (t : TrackSlot) (x : Track) : Prop :=
  c.track = t.val ∧ s.track t = some x ∧ x.prog = c.prog ∧ x.state ≠ .closing ∧
  recordKind rec = x.body.kindNumber ∧ recordId rec ≠ 0

/-- The state after the record of cue id `id` has failed with `code`: one posted failure, LATE counted as well (R46). -/
def State.recordFailed (s : State) (c : CueLoading) (rest : List (List Byte)) (r : Programme) (id : Nat) (code : ResultCode) :
    State :=
  { s.setProg c.prog (some (Programme.post
      { r with counters := { r.counters with
          cuesLate := if code = .late then min 4294967295 (r.counters.cuesLate + 1) else r.counters.cuesLate } }
      ⟨code, .cueload, some c.track, some id, c.ordinal⟩)) with
    loading := leftToLoad c rest }

/-- The store has room for a cue of `lines` lines in a list of `length` cues; the cue it replaces, which held `old` lines, counts
as freed (R43). -/
def State.RoomFor (s : State) (length lines : Nat) (old : Option Nat) : Prop :=
  1 ≤ s.freeCues + old.isSome.toNat ∧ lines ≤ s.freeLines + old.getD 0 ∧ length - old.isSome.toNat < 512

/-- A cue of ticks [start, z), its start already raised to the cut line, passes the window test of SUB track `x` and keeps the ticks
[start, stop): all of them on an ACTIVE track; on a CONCEALING one those below F, or all when it starts at or after F and does not start in
a span (R41, R78). -/
def Track.Admits (x : Track) (b : SubTrack) (start z stop : Nat) : Prop :=
  (x.state = .active ∧ stop = z) ∨
  (x.state = .concealing ∧ ∃ f e mode, b.window = some ⟨f, e, mode⟩ ∧
    ((start < f ∧ stop = min z f) ∨ (f ≤ start ∧ stop = z ∧ (mode = .untilResume ∨ ∃ T, e = some T ∧ T ≤ start))))

/-- The concealment of SUB track `t` comes to its end when the cut line moves to `e` (R82). -/
def State.ConcealEndsAt (s : State) (t : TrackSlot) (e : Nat) : Prop :=
  ∃ x b f xEnd mode, s.track t = some x ∧ x.state = .concealing ∧ x.body = .sub b ∧ b.window = some ⟨f, some xEnd, mode⟩ ∧ xEnd ≤ e

/-- The audio path has placed every AD-AUDIO of its current parcel and comes to the step of AD track `t`, whose programme `r` is
not HALTED (R99). -/
def ReachesStep (s : State) (w : AudioWork) (t : TrackSlot) (rest : List TrackSlot) (r : Programme) (x : Track) (a : AdTrack) :
    Prop :=
  s.audio = some w ∧ w.toRender = [] ∧ w.rendered = none ∧ w.toStep = t :: rest ∧ s.prog w.copy.prog = some r ∧
  r.state ≠ .halted ∧ s.track t = some x ∧ x.body = .ad a

/-- A step is reached whose first part finds no waiting cue overdue behind the head (R105). -/
def AtStep (s : State) (w : AudioWork) (t : TrackSlot) (rest : List TrackSlot) (r : Programme) (x : Track) (a : AdTrack) : Prop :=
  ReachesStep s w t rest r x a ∧ ∀ c ∈ a.cues.tail, w.tick < c.latest

/-- The head of an AD list, if there is one, waits for its earliest tick (R106). -/
def AdTrack.HeadWaits (a : AdTrack) (tick : Nat) : Prop := ∀ h, a.cues.head? = some h → h.state = .pending ∧ tick < h.earliest

/-- The run a description cue uses is at or above its hold (R107). -/
def AdCue.QuietEnough (h : AdCue) (r : Programme) : Prop := h.hold ≤ if h.strict = true then r.strictRun else r.quietRun

/-- The AD fields after a trigger of `h`, which leaves the list as the current cue: with attack 0 PLAY at the duck gain, else ATTACK
from the current gain (R109). -/
def AdTrack.triggered (a : AdTrack) (h : AdCue) (behind : List AdCue) : AdTrack :=
  let k : CurrentCue := ⟨h.id, h.clip, h.strict, h.gn, h.gd⟩
  let duck := h.gd.getD a.gd
  if a.attack = 0 then { a with cues := behind, engine := .play 0 k, gain := duck, rampStart := duck, rampTarget := duck }
  else { a with cues := behind, engine := .attack a.attack k, rampStart := a.gain, rampTarget := duck }

/-- The AD fields after the engine has entered IDLE at full level (R110, R111). -/
def AdTrack.atRest (a : AdTrack) : AdTrack := { a with engine := .idle, gain := 32768, rampStart := 32768, rampTarget := 32768 }

/-- The clip `id` of programme `p` freed, unless an AD cue of the programme still references it (R94). -/
def State.clipFreed (s : State) (p : ProgSlot) (id : Nat) : State :=
  { s with clips := if s.references p id = true then s.clips
      else s.clips.filter fun c => !(decide (c.prog = p) && decide (c.id = id)) }

/-- The programme record after one more cue is DONE (R112). -/
def Programme.oneDone (r : Programme) : Programme :=
  { r with counters := { r.counters with eventsDone := min 4294967295 (r.counters.eventsDone + 1) } }

/-- The programme record after cue `id` of track `t` is MISSED with `code`: counted, posted, and EVENT-MISSED raised with the track
unless the programme drains (R112; log 25). -/
def Programme.oneMissed (r : Programme) (t : TrackSlot) (id : Nat) (code : ResultCode) (ordinal : BitVec 32) : Programme :=
  let posted := Programme.post
    { r with counters := { r.counters with eventsMissed := min 4294967295 (r.counters.eventsMissed + 1) } }
    ⟨code, .event, some t.val, some id, ordinal⟩
  if r.state = .active ∨ r.state = .halted then
    { posted with notice := { posted.notice with
        eventMissed := true
        missedTracks := posted.notice.missedTracks ||| 1#64 <<< t.val } }
  else posted

/-- The current parcel after a step: it goes on with the tracks left, or ends with the last (R99). -/
def leftToStep (w : AudioWork) (rest : List TrackSlot) : Option AudioWork :=
  if rest = [] then none else some { w with toStep := rest }

/-- A reserved place of the CTL queue filled with a reply: the first place reserved for `place` (R139, R151). -/
def Fills (before after : List CtlPlace) (place filled : CtlPlace) : Prop :=
  ∃ front back, before = front ++ place :: back ∧ place ∉ front ∧ after = front ++ filled :: back

/-- A programme that takes requests: ACTIVE or HALTED with no deferred request (R11). -/
def Programme.takes (r : Programme) : Prop := (r.state = .active ∨ r.state = .halted) ∧ r.deferred = none

/-- An accepted mark (R54). -/
def MarkAccepted (s : State) (m : Mark) (rest : List Mark) (r : Programme) : Prop :=
  s.markQ = m :: rest ∧ s.prog m.prog = some r ∧ r.stream = m.stream ∧ r.state = .active ∧ s.cuts.length < 2 ∧
  m.s ≤ maxTick ∧ m.e ≤ maxTick ∧ m.s < m.e ∧ m.e - m.s ≤ 5400000 ∧ (∀ k, r.lastSegment = some k → k < m.k) ∧ r.cutLine ≤ m.s

/-- The mixer comes to AD track `t` of the current copy with room in the MIX queue (R117). -/
def AtRendering (s : State) (w : AudioWork) (t : TrackSlot) (rest : List TrackSlot) (x : Track) (a : AdTrack)
    (r : Programme) : Prop :=
  s.audio = some w ∧ w.rendered = none ∧ w.toRender = t :: rest ∧ s.track t = some x ∧ x.body = .ad a ∧
  s.prog w.copy.prog = some r ∧ r.counters.clippedSamples ≤ 4294967295 ∧ s.egress.mix.length < 32

/-- A CONCEAL request that passes the tests of R74 for the SUB track `t` of an ACTIVE programme. -/
def ConcealAccepted (s : State) (q : Request) (r : Programme) (t : TrackSlot) (x : Track) (b : SubTrack) : Prop :=
  s.prog q.prog = some r ∧ r.state = .active ∧ r.deferred = none ∧ (byteAt q.params 0).toNat = t.val ∧ s.track t = some x ∧
  x.prog = q.prog ∧ x.body = .sub b ∧ x.state = .active ∧ fieldAt q.params 1 8 ≤ maxTick

/-- No work of the programme in flight: no parcel of it being applied, no cut of it in a buffer, no copy of it in flight (R18). -/
def NothingInFlight (s : State) (p : ProgSlot) : Prop :=
  (∀ c, s.loading = some (.cueload c) → c.prog ≠ p) ∧ (∀ q o, s.loading = some (.narration q o) → q.slot ≠ p) ∧
  (∀ c ∈ s.cuts, c.prog ≠ p) ∧ (∀ w, s.audio = some w → w.copy.prog = p → w.inFlight = false)

/-- The state after a step of AD track `t` that leaves its AD fields `a` and ends with nothing else changed (R99, R104). -/
def State.stepped (s : State) (w : AudioWork) (t : TrackSlot) (rest : List TrackSlot) (x : Track) (a : AdTrack) : State :=
  { s.setTrack t (some { x with body := .ad a }) with audio := leftToStep w rest }

/-! ### What stands on a lane -/

/-- The bytes of a parcel the part makes: sync pair, kind, unit address and programme slot in one byte, stream, body length, header
check, body, body check (R162). -/
def laneBytes (kind : Byte) (unit : BitVec 4) (p : ProgSlot) (stream : Byte) (body : List Byte) : List Byte :=
  let address : Byte := unit ++ BitVec.ofNat 4 p.val
  let header := [0xB7, 0x4E, kind, address, stream] ++ be 2 body.length
  header ++ be 2 (crc16 header).toNat ++ body ++ be 4 (crc32 body).toNat

/-- The six bytes of a style entry: alignment, anchor, colour index, background, size, italic (R163). -/
def styleOnLane (x : Style) : List Byte :=
  [match x.alignment with | .left => 0 | .centre => 1 | .right => 2,
    match x.anchor with | .top => 0 | .bottom => 1,
    BitVec.ofNat 8 x.colour,
    match x.background with | .none => 0 | .box => 1 | .shadow => 2,
    match x.size with | .small => 0 | .normal => 1 | .large => 2,
    if x.italic = true then 1 else 0]

/-- The parameters of a LOAD-STYLE name a value outside its field's values in entry `i` of `bytes` (R48, R163). -/
def StyleOutOfRange (bytes : List Byte) (i : Nat) : Prop :=
  2 < (byteAt bytes (6 * i)).toNat ∨ 1 < (byteAt bytes (6 * i + 1)).toNat ∨ 15 < (byteAt bytes (6 * i + 2)).toNat ∨
  2 < (byteAt bytes (6 * i + 3)).toNat ∨ 2 < (byteAt bytes (6 * i + 4)).toNat ∨ 1 < (byteAt bytes (6 * i + 5)).toNat

/-- A byte names no track of programme `p`: it is above 63, or its slot is FREE or another programme's (R26, R48, R74, R154). -/
def State.NamesNoTrack (s : State) (p : ProgSlot) (slot : Byte) : Prop :=
  63 < slot.toNat ∨ ∃ t : TrackSlot, slot.toNat = t.val ∧ (s.track t = none ∨ ∃ x, s.track t = some x ∧ x.prog ≠ p)

/-- A mode byte and its n byte carry the grant mode `m` (R146, R163). -/
def GrantMode.carriedBy (m : GrantMode) (mode n : Byte) : Prop :=
  (mode = 0 ∧ m = .single) ∨ (mode = 1 ∧ m = .batch n.toNat ∧ 1 ≤ n.toNat ∧ n.toNat ≤ 8)

/-! ### Room: every queue holds at most its capacity, and the credit count at most the places that are free -/

/-- The queues, buffers and credit (R29, R52, R65, R97, R129, R130, R139, R149) and the pools of cue records, text blocks, clip records
and narration pages, a programme's clip ids being distinct (R33, R34, R85, R86). -/
def WithinCapacity (s : State) : Prop :=
  s.rx.buffer.length + s.rx.reservedPlaces ≤ 32 ∧ s.rx.credit ≤ s.rx.freePlaces ∧
  s.loaderQ.length ≤ 32 ∧ s.markQ.length ≤ 8 ∧ s.cuts.length ≤ 2 ∧ s.audioQ.length ≤ 8 ∧ s.requestQ.length ≤ 4 ∧
  s.egress.thru.length ≤ 32 ∧ s.egress.seg.length ≤ 16 ∧ s.egress.mix.length ≤ 32 ∧ s.egress.ctl.length ≤ 16 ∧
  s.cuesInUse ≤ 4096 ∧ s.linesInUse ≤ 8192 ∧ s.clips.length ≤ 512 ∧ s.pagesInUse ≤ 16384 ∧
  (s.clips.map fun c => (c.prog, c.id)).Nodup

/-! ### The arbiter -/

/-- A BATCH allowance is 1 to 8 (R146). -/
def GrantMode.legal : GrantMode → Prop
  | .single => True
  | .batch n => 1 ≤ n ∧ n ≤ 8

def EgressSettings.legal (x : EgressSettings) : Prop :=
  x.modes.ctl.legal ∧ x.modes.mix.legal ∧ x.modes.seg.legal ∧ x.modes.thru.legal

/-- Credit 0 to 255, pass-over counts 0 to 64 and all 0 under ROTATE, legal settings, and a grant in force always has a placed
parcel to send and allowance for it (R140 to R146). -/
def ArbiterSound (s : State) : Prop :=
  s.egress.credit ≤ 255 ∧
  (s.egress.passOver.ctl ≤ 64 ∧ s.egress.passOver.mix ≤ 64 ∧ s.egress.passOver.seg ≤ 64 ∧ s.egress.passOver.thru ≤ 64) ∧
  (s.egress.settings.policy = .rotate → s.egress.passOver = ⟨0, 0, 0, 0⟩) ∧
  s.egress.settings.legal ∧ (∀ x, s.egress.pendingSettings = some x → x.legal) ∧
  ∀ g, s.egress.grant = some g → s.egress.ready g.requester = true ∧ g.sent < g.allowance ∧ g.allowance ≤ 8

/-! ### Programmes -/

/-- A programme in DRAINING holds its RESET-PROGRAMME as deferred request, one in CLOSING its CLOSE-PROGRAMME, and in no other
state is either held (R11, R19, R20). -/
def Programme.drainHeld (r : Programme) : Prop :=
  (r.state = .draining ↔ ∃ d, r.deferred = some d ∧ d.kind = .resetProgramme) ∧
  (r.state = .closing ↔ ∃ d, r.deferred = some d ∧ d.kind = .closeProgramme)

/-- The runs stop at 255 and the strict run never exceeds the quiet run (R102); the posted-failure count stops at 65,535 (R15);
every tick is at most 2^48 - 1 (R1); the threshold is at most 32,767 (R10); a HALTED programme has a halt code and an ACTIVE one
has none (R15, R19). -/
def Programme.inRange (r : Programme) : Prop :=
  r.strictRun ≤ r.quietRun ∧ r.quietRun ≤ 255 ∧ r.failureCount ≤ 65535 ∧
  r.timebase.origin ≤ maxTick ∧ r.cutLine ≤ maxTick ∧ r.audioLine ≤ maxTick ∧ r.threshold ≤ 32767 ∧
  (r.state = .active → r.haltCode = none) ∧ (r.state = .halted → r.haltCode ≠ none)

/-- Every programme in use is sound. -/
def ProgrammesSound (s : State) : Prop := ∀ p r, s.prog p = some r → r.drainHeld ∧ r.inRange

/-! ### Streams -/

/-- Every stream in use belongs to one programme or one track (R14). -/
def StreamsDistinct (s : State) : Prop :=
  (∀ p p' r r', s.prog p = some r → s.prog p' = some r' → r.stream = r'.stream → p = p') ∧
  (∀ t t' x x', s.track t = some x → s.track t' = some x' → x.stream = x'.stream → t = t') ∧
  (∀ p t r x, s.prog p = some r → s.track t = some x → r.stream ≠ x.stream)

/-! ### Lists -/

/-- A subtitle list: in the order of R37, no cue id twice, no cue empty, at most 512. -/
def SubTrack.ordered (b : SubTrack) : Prop :=
  b.cues.Pairwise (fun x y => x.before y = true) ∧ (b.cues.map (·.id)).Nodup ∧ (∀ c ∈ b.cues, c.start < c.stop) ∧ b.cues.length ≤ 512

/-- An event list: in the order of R37, no cue id twice, earliest at most latest, at most 512. -/
def AdTrack.ordered (b : AdTrack) : Prop :=
  b.cues.Pairwise (fun x y => x.before y = true) ∧ (b.cues.map (·.id)).Nodup ∧ (∀ c ∈ b.cues, c.earliest ≤ c.latest) ∧ b.cues.length ≤ 512

/-- Every cue list is in order and holds no cue id twice (R37). -/
def ListsOrdered (s : State) : Prop :=
  (∀ t b, s.sub? t = some b → b.ordered) ∧ (∀ t b, s.ad? t = some b → b.ordered)

/-! ### The two tables together -/

/-- A programme's track list holds, once each, the slots of its tracks that are not FREE; every track in use belongs to a
programme in use; a track that a CLOSE-TRACK is closing is its programme's (R23, R26, R27). -/
def TablesAgree (s : State) : Prop :=
  (∀ p r, s.prog p = some r → r.tracks.Nodup ∧ ∀ t, t ∈ r.tracks ↔ ∃ x, s.track t = some x ∧ x.prog = p) ∧
  (∀ t x, s.track t = some x → s.prog x.prog ≠ none) ∧
  (∀ p r d t, s.prog p = some r → r.deferred = some d → d.kind = .closeTrack t → t ∈ r.tracks)

/-- Every subtitle cue in the store ends after the cut line of its programme (R37). -/
def CuesEndAfterCutLine (s : State) : Prop :=
  ∀ p r t x b, s.prog p = some r → s.track t = some x → x.prog = p → x.body = .sub b → ∀ c ∈ b.cues, r.cutLine < c.stop

end Sys2Proof.Machine
end

