-- ==== Sys2Proof/Certificates/Slice0/Obligations.lean ====
section
/-! DEFINITION. The statements for the provers. Where a statement rests on a choice of the model, its docstring names the log
entry. `next` equations give the whole next state, so they are frames as well. -/

open Sys2Proof Sys2Proof.Machine

/-! ### The step -/

/-- A step takes the command at the front of the queue and runs it on the state with the queue's rest; with nothing waiting the
part idles (log 2). -/
def Obligations.StepRunsFrontCommandOrIdles : Prop :=
  (∀ (c : Instr) (rest : List Instr) (s : State), step { s with pending := c :: rest } = exec c { s with pending := rest }) ∧
  (∀ s : State, s.pending = [] → step s = .next s)

/-- Every command, in every state, answers a next state and leaves the commands that wait as they are (log 27). -/
def Obligations.EveryCommandAnswersNextAndKeepsTheQueue : Prop :=
  ∀ (c : Instr) (s : State), ∃ t, exec c s = .next t ∧ t.pending = s.pending

/-! ### Resets -/

/-- R28, R136, R138, R140, R148, R160, R161: power-on and the reset pin act at once; a unit reset takes effect when its reply has left. Each
sets every block as at power-on and samples the straps. R140 says that the reset pin cuts off the parcel being sent; that power-on does so too,
that the cut parcel is recorded, and that no reset clears the record of the lanes are the model's choice (log 5). -/
def Obligations.EveryResetSetsEveryBlockAsAtPowerOn : Prop :=
  ∀ (straps : BitVec 4) (s : State),
    (s.egress.sending? = none →
      exec (.powerOn straps) s
          = .next (freshPart straps s.lanes.left (s.lanes.returned ++ [.restart 32]) s.pending) ∧
        exec (.resetPin straps) s
          = .next (freshPart straps s.lanes.left (s.lanes.returned ++ [.restart 32]) s.pending)) ∧
    (∀ p, s.egress.sending? = some p →
      exec (.powerOn straps) s
          = .next (freshPart straps (s.lanes.left ++ [.cutOff p]) (s.lanes.returned ++ [.restart 32]) s.pending) ∧
        exec (.resetPin straps) s
          = .next (freshPart straps (s.lanes.left ++ [.cutOff p]) (s.lanes.returned ++ [.restart 32]) s.pending)) ∧
    (∀ (g : Grant) (p : Parcel) (rest : List CtlPlace),
      s.egress.grant = some g → g.requester = .ctl → s.egress.ctl = .unitResetReply p :: rest →
      exec (.parcelLeft straps) s
        = .next (freshPart straps (s.lanes.left ++ [.whole p]) (s.lanes.returned ++ [.restart 32]) s.pending))

/-! ### The lane receiver -/

/-- R127 to R130, R162: nine bytes are a header when they begin with the sync pair, carry the CRC-16 of the first seven and declare at most
12,288 body bytes; a hunt ends at the first nine bytes of the stream that are one. An accepted header reserves a buffer place if one is free,
uses one credit and enters BODY; a hunt that no header failure began ends the same way. -/
def Obligations.AcceptedHeaderReservesAPlaceAndUsesACredit : Prop :=
  (∀ (bs : List Byte) (b : Byte) (off len : Nat), beNat [] = 0 ∧ beNat (bs ++ [b]) = 256 * beNat bs + b.toNat ∧
    fieldAt bs off len = beNat ((bs.drop off).take len) ∧ byteAt bs off = bs[off]?.getD 0) ∧
  crc16 [] = 0xFFFF ∧
  (∀ (bs : List Byte) (b : Byte), crc16 (bs ++ [b]) = (List.range 8).foldl
    (fun (c : BitVec 16) _ => (c <<< (1 : Nat)) ^^^ (if c.getLsbD 15 = true then 0x1021 else 0))
    (crc16 bs ^^^ ((b.setWidth 16 : BitVec 16) <<< (8 : Nat)))) ∧
  (∀ bs : List Byte, headerAccepts bs = true ↔ bs.length = 9 ∧ byteAt bs 0 = 0xB7 ∧ byteAt bs 1 = 0x4E ∧
    fieldAt bs 7 2 = (crc16 (bs.take 7)).toNat ∧ fieldAt bs 5 2 ≤ 12288) ∧
  (∀ bs : List Byte, headerOf bs
    = ⟨byteAt bs 2, byteAt bs 3, byteAt bs 4, fieldAt bs 5 2, BitVec.ofNat 16 (fieldAt bs 7 2)⟩) ∧
  (∀ bytes h rest : List Byte, huntFor bytes = some (h, rest) ↔ ∃ skipped, bytes = skipped ++ h ++ rest ∧
    headerAccepts h = true ∧ ∀ i, i < skipped.length → headerAccepts ((bytes.drop i).take 9) = false) ∧
  ∀ (s : State) (bytes : List Byte), s.rx.closed = false →
    (s.rx.framing = .header → headerAccepts bytes = true →
      exec (.headerAccepted bytes) s = .next { s with
        rx := { s.rx with
          framing := .body (headerOf bytes) (decide (s.rx.buffer.length < 32))
          credit := s.rx.credit - 1 } }) ∧
    (∀ seen h, s.rx.framing = .hunt false seen → huntFor (seen ++ bytes) = some (h, []) →
      exec (.headerAccepted bytes) s = .next { s with
        rx := { s.rx with
          framing := .body (headerOf h) (decide (s.rx.buffer.length < 32))
          credit := s.rx.credit - 1 } })

/-- R128, R129: the header that ends a hunt begun by a header failure counts a resync and makes a credit restart, which grants
one credit for each place neither filled nor reserved. -/
def Obligations.HuntAfterAFailureEndsWithACreditRestart : Prop :=
  ∀ (s : State) (bytes seen h : List Byte), s.rx.closed = false → s.rx.framing = .hunt true seen →
    huntFor (seen ++ bytes) = some (h, []) →
      let granted := if s.rx.buffer.length < 32 then 32 - (s.rx.buffer.length + 1) else 32 - s.rx.buffer.length
      exec (.headerAccepted bytes) s = .next { s with
        rx := { s.rx with
          framing := .body (headerOf h) (decide (s.rx.buffer.length < 32))
          credit := granted }
        counters := { s.counters with resyncs := min 4294967295 (s.counters.resyncs + 1) }
        lanes := { s.lanes with returned := s.lanes.returned ++ [.restart granted] } }

/-- R128, R130: a header failure is counted and begins a hunt at the byte after the first; a parcel with no place is read to its
end, discarded and counted. -/
def Obligations.HeaderFailureAndOverrunAreCounted : Prop :=
  ∀ (s : State) (bytes : List Byte), s.rx.closed = false →
    (s.rx.framing = .header → bytes.length = 9 → headerAccepts bytes = false →
      exec (.headerFailure bytes) s = .next { s with
        rx := { s.rx with framing := .hunt true bytes.tail }
        counters := { s.counters with headerFailures := min 4294967295 (s.counters.headerFailures + 1) } }) ∧
    (∀ h, s.rx.framing = .body h false → bytes.length = h.length + 4 →
      exec (.overrun bytes) s = .next { s with
        rx := { s.rx with framing := .header }
        counters := { s.counters with overruns := min 4294967295 (s.counters.overruns + 1) } })

/-- R130, R131, R137, R162, R163: a parcel with a reserved place fills it with the current ordinal, its class and its soundness. The class is
that of its kind, and for CUELOAD, NARRATION and CONTROL of its unit address as well. A parcel that is not FOREIGN is corrupt unless its body
check is the CRC-32 of its body and its length is the one of its kind; a CUELOAD is walked record by record. -/
def Obligations.TakenWholeFillsTheReservedPlace : Prop :=
  crc32 [] ^^^ 0xFFFFFFFF = 0xFFFFFFFF ∧
  (∀ (bs : List Byte) (b : Byte), crc32 (bs ++ [b]) ^^^ 0xFFFFFFFF = (List.range 8).foldl
    (fun (c : BitVec 32) _ => (c >>> (1 : Nat)) ^^^ (if c.getLsbD 0 = true then 0xEDB88320 else 0))
    (crc32 bs ^^^ 0xFFFFFFFF ^^^ b.setWidth 32)) ∧
  (∀ (address : BitVec 4) (p : Parcel),
    (p.kind = 0x01 → classOf address p = .audio) ∧ (p.kind = 0x02 → classOf address p = .mark) ∧
    (p.addr.extractLsb' 4 4 = address → p.kind = 0x03 ∨ p.kind = 0x04 → classOf address p = .posted) ∧
    (p.addr.extractLsb' 4 4 = address → p.kind = 0x05 → classOf address p = .request) ∧
    (p.addr.extractLsb' 4 4 ≠ address → p.kind = 0x03 ∨ p.kind = 0x04 ∨ p.kind = 0x05 → classOf address p = .foreign) ∧
    (p.kind.toNat = 0 ∨ 6 ≤ p.kind.toNat → classOf address p = .foreign)) ∧
  (∀ (cls : ParcelClass) (p : Parcel), corruptIn cls p = false ↔
    cls = .foreign ∨ (crc32 p.body = p.bodyCheck ∧ lengthSound p = true)) ∧
  (∀ p : Parcel,
    (p.kind = 0x01 → (lengthSound p = true ↔ p.body.length = 1928)) ∧
    (p.kind = 0x02 → (lengthSound p = true ↔ p.body.length = 20)) ∧
    (p.kind = 0x03 → (lengthSound p = true ↔ ∃ records, cueloadRecords p.body = some records)) ∧
    (p.kind = 0x04 → (lengthSound p = true ↔ p.body.length = 970)) ∧
    (p.kind = 0x05 → (lengthSound p = true ↔ 5 ≤ p.body.length ∧ p.body.length = 5 + fieldAt p.body 3 2))) ∧
  (∀ (body : List Byte) (records : List (List Byte)), cueloadRecords body = some records ↔
    2 ≤ body.length ∧ body.drop 2 = records.flatten ∧ records.length = (byteAt body 1).toNat ∧
    ∀ r ∈ records, 8 ≤ r.length ∧ fieldAt r 0 2 = r.length) ∧
  ∀ (s : State) (bytes : List Byte) (h : Header), s.rx.closed = false → s.rx.framing = .body h true →
    bytes.length = h.length + 4 →
      let p : Parcel := {
        kind := h.kind
        addr := h.addr
        stream := h.stream
        body := bytes.take h.length
        headerCheck := h.check
        bodyCheck := BitVec.ofNat 32 (beNat (bytes.drop h.length)) }
      let cls := classOf s.rx.address p
      let corrupt := corruptIn cls p
      exec (.takenWhole bytes) s = .next { s with
        rx := { s.rx with
          framing := .header
          buffer := s.rx.buffer ++ [⟨p, s.rx.ordinal, cls, corrupt⟩]
          ordinal := s.rx.ordinal + 1 }
        counters := { s.counters with
          taken := min 4294967295 (s.counters.taken + 1)
          bodyFailures :=
            if corrupt = true then min 4294967295 (s.counters.bodyFailures + 1) else s.counters.bodyFailures
          consumed :=
            if (cls = .posted ∨ cls = .request) ∧ corrupt = false then min 4294967295 (s.counters.consumed + 1)
            else s.counters.consumed } }

/-- R129, R132, R133, R134, R137, R138: routing to THRU, byte for byte, with the copy of a PROG-AUDIO or sound SEGMARK of an open programme;
a corrupt SEGMARK is copied nowhere and posted to the programme of its stream. An OPEN receiver returns one credit; a CLOSED one routes in the
same way and returns none (log 29). -/
def Obligations.RoutingPassesParcelsAndCopiesThem : Prop :=
  ∀ (s : State) (e : IngressEntry) (rest : List IngressEntry),
    s.rx.buffer = e :: rest → s.egress.thru.length < 32 →
    (e.cls = .foreign → exec .routing s = .next (s.passed e rest)) ∧
    (e.cls = .audio → ∀ p r, s.progOfStream e.parcel.stream = some p → s.prog p = some r →
      (r.state ≠ .closing → s.audioQ.length < 8 →
        exec .routing s = .next { s.passed e rest with
          audioQ := s.audioQ ++ [⟨e.parcel.body, p, e.parcel.stream, e.ordinal, e.corrupt⟩] }) ∧
      (r.state = .closing → exec .routing s = .next (s.passed e rest))) ∧
    (e.cls = .mark → e.corrupt = false → ∀ p r, s.progOfStream e.parcel.stream = some p → s.prog p = some r →
      (r.state ≠ .closing → s.markQ.length < 8 →
        exec .routing s = .next { s.passed e rest with
          markQ := s.markQ ++ [⟨fieldAt e.parcel.body 0 4, fieldAt e.parcel.body 4 8, fieldAt e.parcel.body 12 8, p,
            e.parcel.stream, e.ordinal⟩] }) ∧
      (r.state = .closing → exec .routing s = .next (s.passed e rest))) ∧
    (e.cls = .audio ∨ e.cls = .mark → s.progOfStream e.parcel.stream = none →
      exec .routing s = .next (s.passed e rest)) ∧
    (e.cls = .mark → e.corrupt = true → ∀ p r, s.progOfStream e.parcel.stream = some p → s.prog p = some r →
      exec .routing s
        = .next ((s.passed e rest).setProg p (some (r.post ⟨.integrity, .segmark, none, none, e.ordinal⟩))))

/-- R29, R132, R135, R138, R149: a sound addressed parcel goes to the loader queue or the request queue, and to no other; a corrupt one is
dropped and counted, and a CUELOAD or NARRATION is posted INTEGRITY to the programme of its slot when that is in use. A CLOSED receiver routes
in the same way and returns no credit (log 29). -/
def Obligations.AddressedParcelsGoInwardOrAreDropped : Prop :=
  ∀ (s : State) (e : IngressEntry) (rest : List IngressEntry),
    s.rx.buffer = e :: rest →
    (e.cls = .posted → e.corrupt = false → s.loaderQ.length < 32 →
      exec .routing s = .next { s.unbuffered rest with
        loaderQ := s.loaderQ ++
          [if e.parcel.kind = 0x04 then .narration e.parcel e.ordinal else .cueload e.parcel e.ordinal] }) ∧
    (e.cls = .request → e.corrupt = false → s.requestQ.length < 4 →
      exec .routing s = .next { s.unbuffered rest with
        requestQ := s.requestQ ++ [{
          tag := BitVec.ofNat 16 (fieldAt e.parcel.body 0 2)
          name := byteAt e.parcel.body 2
          params := e.parcel.body.drop 5
          prog := Fin.ofNat 16 e.parcel.addr.toNat
          stream := e.parcel.stream
          ordinal := e.ordinal }] }) ∧
    (e.cls = .request → e.corrupt = true → exec .routing s = .next (s.unbuffered rest).oneDropped) ∧
    (e.cls = .posted → e.corrupt = true → s.prog e.parcel.slot = none →
      exec .routing s = .next (s.unbuffered rest).oneDropped) ∧
    (e.cls = .posted → e.corrupt = true → ∀ r, s.prog e.parcel.slot = some r →
      exec .routing s = .next ((s.unbuffered rest).oneDropped.setProg e.parcel.slot
        (some (r.post ⟨.integrity, if e.parcel.kind = 0x04 then .narration else .cueload, none, none, e.ordinal⟩))))

/-- R132: while a queue the head parcel needs is full, nothing is placed and the parcel waits. -/
def Obligations.RoutingWaitsForRoom : Prop :=
  ∀ (s : State) (e : IngressEntry) (rest : List IngressEntry), s.rx.buffer = e :: rest →
    (e.cls = .foreign ∨ e.cls = .audio ∨ e.cls = .mark → 32 ≤ s.egress.thru.length → exec .routing s = .next s) ∧
    (e.cls = .audio → 8 ≤ s.audioQ.length → ∀ p r, s.progOfStream e.parcel.stream = some p → s.prog p = some r →
      r.state ≠ .closing → exec .routing s = .next s) ∧
    (e.cls = .mark → e.corrupt = false → 8 ≤ s.markQ.length → ∀ p r, s.progOfStream e.parcel.stream = some p →
      s.prog p = some r → r.state ≠ .closing → exec .routing s = .next s) ∧
    (e.cls = .posted → e.corrupt = false → 32 ≤ s.loaderQ.length → exec .routing s = .next s) ∧
    (e.cls = .request → e.corrupt = false → 4 ≤ s.requestQ.length → exec .routing s = .next s)

/-- R15: what a posted failure does to its programme, by the programme's state. -/
def Obligations.PostedFailureActsByState : Prop :=
  ∀ (r : Programme) (f : Failure),
    let counted := { r with failureCount := min 65535 (r.failureCount + 1) }
    let captured := if r.firstError = none then
        { counted with firstError := some f, notice := { counted.notice with firstError := true } }
      else counted
    (f.code = .halted → r.post f = counted) ∧
    (f.code ≠ .halted → r.state = .draining ∨ r.state = .closing → r.post f = counted) ∧
    (f.code ≠ .halted → r.state = .halted → r.post f = captured) ∧
    (f.code ≠ .halted → r.state = .active → r.escalation.getLsbD f.code.number = false → r.post f = captured) ∧
    (f.code ≠ .halted → r.state = .active → r.escalation.getLsbD f.code.number = true →
      r.post f = { captured with
        state := .halted
        haltCode := some f.code
        notice := { captured.notice with halted := true } })

/-! ### The egress arbiter -/

/-- R141: a returned credit adds one up to 255; a restart sets the counter to 0 and stops no parcel; each parcel that begins, at a grant or
behind another parcel of its grant, takes one; at 0 none begins and a grant ends; every reset leaves 0. -/
def Obligations.EgressCreditCountsParcelsAllowed : Prop :=
  (∀ s : State,
    (s.egress.credit < 255 → exec .egressCredit s
      = .next { s with egress := { s.egress with credit := s.egress.credit + 1 } }) ∧
    (s.egress.credit = 255 → exec .egressCredit s = .next s) ∧
    exec .egressCreditRestart s = .next { s with egress := { s.egress with credit := 0 } } ∧
    (s.egress.grant ≠ none ∨ s.egress.credit = 0 ∨ (∀ r, s.egress.ready r = false) → exec .grant s = .next s)) ∧
  (∀ s t : State, exec .grant s = .next t → t.egress.grant ≠ s.egress.grant → t.egress.credit + 1 = s.egress.credit) ∧
  (∀ (straps : BitVec 4) (s t : State), exec (.parcelLeft straps) s = .next t → s.egress.sending? ≠ none →
    (t.egress.grant ≠ none → t.egress.credit + 1 = s.egress.credit) ∧
    (t.egress.grant = none → t.egress.credit = s.egress.credit ∨ t.egress.credit = 0) ∧
    (s.egress.credit = 0 → t.egress.grant = none)) ∧
  (∀ (straps : BitVec 4) (s t : State), exec (.powerOn straps) s = .next t ∨ exec (.resetPin straps) s = .next t →
    t.egress.credit = 0) ∧
  (∀ (straps : BitVec 4) (s t : State) (g : Grant) (p : Parcel) (rest : List CtlPlace),
    s.egress.grant = some g → g.requester = .ctl → s.egress.ctl = .unitResetReply p :: rest →
    exec (.parcelLeft straps) s = .next t → t.egress.credit = 0)

/-- R142, R144, R146: under ROTATE the first ready requester of the cycle after the last granted one is chosen; its head begins,
which uses a credit. Settings that waited take effect, and a change of policy clears the pass-over counts. -/
def Obligations.GrantUnderRotateSearchesTheCycle : Prop :=
  ∀ (s : State) (r : Requester) (front back : List Requester),
    s.egress.grant = none → 0 < s.egress.credit →
    let settings := s.egress.pendingSettings.getD s.egress.settings
    settings.policy = .rotate →
    (match s.egress.last with
      | .ctl => [Requester.mix, .seg, .thru, .ctl]
      | .mix => [.seg, .thru, .ctl, .mix]
      | .seg => [.thru, .ctl, .mix, .seg]
      | .thru => [.ctl, .mix, .seg, .thru]) = front ++ r :: back →
    (∀ x ∈ front, s.egress.ready x = false) → s.egress.ready r = true →
      exec .grant s = .next { s with
        egress := { s.egress with
          grant := some ⟨r, match settings.modes.get r with
            | .single => 1
            | .batch n => n, 0⟩
          credit := s.egress.credit - 1
          settings := settings
          pendingSettings := none
          passOver := if s.egress.settings.policy = .rotate then s.egress.passOver else ⟨0, 0, 0, 0⟩
          last := r } }

/-- R142, R143, R146: under FIXED the first ready requester at the pass-over limit is chosen, else the first ready one in
priority order; its count becomes 0, that of every other ready one rises by 1 to at most 64. -/
def Obligations.GrantUnderFixedFollowsPriorityAndGuard : Prop :=
  ∀ (s : State) (r : Requester) (front back : List Requester),
    s.egress.grant = none → 0 < s.egress.credit →
    let settings := s.egress.pendingSettings.getD s.egress.settings
    let counts : PerRequester Nat := if s.egress.settings.policy = .fixed then s.egress.passOver else ⟨0, 0, 0, 0⟩
    let after : Requester → Nat := fun x =>
      if x = r then 0 else if s.egress.ready x = true then min 64 (counts.get x + 1) else counts.get x
    settings.policy = .fixed → [Requester.ctl, .mix, .seg, .thru] = front ++ r :: back → s.egress.ready r = true →
    ((counts.get r = 64 ∧ ∀ x ∈ front, ¬ (s.egress.ready x = true ∧ counts.get x = 64)) ∨
      ((∀ x, ¬ (s.egress.ready x = true ∧ counts.get x = 64)) ∧ ∀ x ∈ front, s.egress.ready x = false)) →
      exec .grant s = .next { s with
        egress := { s.egress with
          grant := some ⟨r, match settings.modes.get r with
            | .single => 1
            | .batch n => n, 0⟩
          credit := s.egress.credit - 1
          settings := settings
          pendingSettings := none
          passOver := ⟨after .ctl, after .mix, after .seg, after .thru⟩
          last := r } }

/-- R140, R142: a parcel that has left frees its place, and the grant goes on to the next head parcel when allowance, a placed head
and credit are left, else it ends. -/
def Obligations.ParcelLeftFreesItsPlaceAndTheGrantGoesOnOrEnds : Prop :=
  ∀ (straps : BitVec 4) (s : State) (g : Grant) (p : Parcel) (e : Egress),
    s.egress.grant = some g →
    ((g.requester = .ctl ∧ ∃ rest, s.egress.ctl = .filled p :: rest ∧ e = { s.egress with ctl := rest }) ∨
      (g.requester = .mix ∧ ∃ rest, s.egress.mix = p :: rest ∧ e = { s.egress with mix := rest }) ∨
      (g.requester = .seg ∧ ∃ rest, s.egress.seg = p :: rest ∧ e = { s.egress with seg := rest }) ∨
      (g.requester = .thru ∧ ∃ rest, s.egress.thru = p :: rest ∧ e = { s.egress with thru := rest })) →
      exec (.parcelLeft straps) s = .next { s with
        lanes := { s.lanes with left := s.lanes.left ++ [.whole p] }
        egress := if g.sent + 1 < g.allowance ∧ e.ready g.requester = true ∧ e.credit ≠ 0 then
            { e with grant := some { g with sent := g.sent + 1 }, credit := e.credit - 1 }
          else { e with grant := none } }

/-! ### The cue loader -/

/-- R18, R30, R32: what becomes of a parcel entry at its taking, by the state of its programme. -/
def Obligations.LoaderTakesAnEntryByTheStateOfItsProgramme : Prop :=
  ∀ (s : State) (q : Parcel) (o : BitVec 32) (rest : List LoaderEntry) (narration : Bool),
    s.loading = none →
    s.loaderQ = (if narration = true then .narration q o else .cueload q o) :: rest →
    let taken := { s with loaderQ := rest }
    let origin : FailureOrigin := if narration = true then .narration else .cueload
    (s.prog q.slot = none → exec .loaderTake s = .next taken.oneDropped) ∧
    (∀ r, s.prog q.slot = some r →
      (r.state = .halted →
        exec .loaderTake s = .next (taken.setProg q.slot (some (r.post ⟨.halted, origin, none, none, o⟩)))) ∧
      (r.state = .draining ∨ r.state = .closing →
        exec .loaderTake s
          = .next (taken.oneDiscarded.setProg q.slot (some (r.post ⟨.halted, origin, none, none, o⟩)))) ∧
      (r.state = .active → narration = true → exec .loaderTake s = .next { taken with loading := some (.narration q o) }) ∧
      (r.state = .active → narration = false → ∀ records, cueloadRecords q.body = some records →
        1 ≤ records.length → records.length ≤ 16 →
        exec .loaderTake s = .next { taken with
          loading := some (.cueload ⟨q.slot, (byteAt q.body 0).toNat, o, records⟩) }) ∧
      (r.state = .active → narration = false → ∀ records, cueloadRecords q.body = some records →
        records.length = 0 ∨ 16 < records.length →
        exec .loaderTake s = .next (taken.setProg q.slot
          (some (r.post ⟨.range, .cueload, some (byteAt q.body 0).toNat, none, o⟩)))))

/-- R16, R30, R156: a FENCE marker is answered in its reserved place with first-error record, count, state and halt code, and the
record and the count are cleared. -/
def Obligations.FenceMarkerReportsAndClears : Prop :=
  ∀ (s : State) (p : ProgSlot) (tag : BitVec 16) (rest : List LoaderEntry) (r : Programme) (d : Deferred) (ctl : List CtlPlace),
    s.loading = none → s.loaderQ = .fence p tag :: rest → s.prog p = some r → r.deferred = some d → d.kind = .fence →
    Fills s.egress.ctl ctl (.reserved p)
      (.filled (replyParcel s.rx.address p d.stream d.tag 0x0B .done
        (optField 13 (r.firstError.map Failure.bytes) ++ be 2 r.failureCount ++ be 1 r.state.number
          ++ optField 1 (r.haltCode.map fun c => be 1 c.number)))) →
      exec .loaderTake s = .next { s.setProg p (some { r with firstError := none, failureCount := 0, deferred := none }) with
        loaderQ := rest
        egress := { s.egress with ctl := ctl } }

/-- R4, R5, R7, R21, R35, R37, R39, R41 to R44, R78: the conversion rounds u × 90,000 × D / N to the nearest tick, halves up, is refused above
2^48 - 1 and is monotone; a subtitle PLACE record carries its fields in its bytes. One that is not late finds room, the cue of its id counted
as freed: its start is raised to the cut line if it lies below, its end is trimmed to F if it crosses the start of a window, and the cue takes
its place in the list, which is by start and then by cue id, instead of the cue of its id; on a CONCEALING track one that starts at or after
the end of a span is inserted unchanged. That a replacement that is trimmed counts in the cues trimmed as well is the model's choice between
R43 and R44 (log 30). -/
def Obligations.PlaceInsertsASubtitleCue : Prop :=
  (∀ (tb : Timebase) (u : Nat),
    let off := (2 * (u * 90000 * tb.d) + tb.n) / (2 * tb.n)
    tb.tick u = (if tb.origin + off ≤ 281474976710655 then some (tb.origin + off) else none) ∧
    (1 ≤ tb.n → 2 * off * tb.n ≤ 2 * (u * 90000 * tb.d) + tb.n ∧ 2 * (u * 90000 * tb.d) + tb.n < 2 * (off + 1) * tb.n) ∧
    ∀ v a z, u ≤ v → tb.tick u = some a → tb.tick v = some z → a ≤ z) ∧
  (∀ (rec : List Byte) (ls : List (List Byte)), 20 ≤ rec.length → linesOf (byteAt rec 19).toNat (rec.drop 20) = some ls →
    (byteAt rec 16).toNat ≤ 15 → (byteAt rec 17).toNat ≤ 31 → 1 ≤ (byteAt rec 19).toNat → (byteAt rec 19).toNat ≤ 4 →
    (∀ l ∈ ls, 1 ≤ l.length ∧ l.length ≤ 96) →
    subPlaceOf rec = some {
      id := fieldAt rec 4 4
      startUnit := fieldAt rec 8 4
      endUnit := fieldAt rec 12 4
      region := (byteAt rec 16).toNat
      style := (byteAt rec 17).toNat
      forced := (byteAt rec 18).getLsbD 0
      lines := ls }) ∧
  (∀ x y : SubCue, x.before y = true ↔ x.start < y.start ∨ (x.start = y.start ∧ x.id < y.id)) ∧
  (∀ (x : SubCue) (cues : List SubCue), ∃ front back, cues = front ++ back ∧
    insertBy SubCue.before x cues = front ++ x :: back ∧ (∀ y ∈ front, x.before y = false) ∧
    ∀ y, back.head? = some y → x.before y = true) ∧
  ∀ (s : State) (c : CueLoading) (rec : List Byte) (rest : List (List Byte)) (r : Programme) (t : TrackSlot) (x : Track)
    (b : SubTrack) (pl : SubPlace) (a z stop : Nat),
    AtRecord s c rec rest r → RecordFits s c rec t x → recordOp rec = 1 → x.body = .sub b →
    subPlaceOf rec = some pl → r.timebase.tick pl.startUnit = some a → r.timebase.tick pl.endUnit = some z →
    a < z → r.cutLine < z → x.Admits b (max a r.cutLine) z stop →
    (x.state = .concealing → ∀ f e, b.window = some ⟨f, e, .untilResume⟩ →
      max a r.cutLine < f ∧ ∀ xEnd, e = some xEnd → r.cutLine < xEnd) →
    (∀ y ∈ b.cues, y.id = pl.id → y.emitted = false) →
    s.RoomFor b.cues.length pl.lines.length ((b.cues.find? fun y => y.id == pl.id).map fun y => y.lines.length) →
      let trimmed := decide (a < r.cutLine) || decide (stop < z)
      let cue : SubCue := {
        id := pl.id
        start := max a r.cutLine
        stop := stop
        region := pl.region
        style := pl.style
        forced := pl.forced
        lines := pl.lines
        trimmed := trimmed
        emitted := false }
      let cues := insertBy SubCue.before cue (b.cues.filter fun y => y.id != pl.id)
      exec .place s = .next { (s.setTrack t (some { x with body := .sub { b with cues := cues } })).setProg c.prog
          (some { r with counters := { r.counters with
            cuesAccepted := min 4294967295 (r.counters.cuesAccepted + 1)
            cuesTrimmed :=
              if trimmed = true then min 4294967295 (r.counters.cuesTrimmed + 1) else r.counters.cuesTrimmed } }) with
        loading := leftToLoad c rest }

/-- R5, R6, R36, R38 to R43, R46, R78: a PLACE that fails is posted and the store stays as it was. A subtitle PLACE fails with RANGE for a
field out of range, a refused conversion or an empty cue, with LATE when its time has been cut, when it starts in the span of a CONCEALING
track or when the cue of its id is emitted, and with FULL when the store has no room. A description PLACE fails with RANGE for a field out of
range or a refused conversion, with LATE when its latest tick lies below the audio line or its id is the current cue's, and with FULL when the
store has no room. -/
def Obligations.PlaceThatComesLateIsPosted : Prop :=
  ∀ (s : State) (c : CueLoading) (rec : List Byte) (rest : List (List Byte)) (r : Programme) (t : TrackSlot) (x : Track),
    AtRecord s c rec rest r → RecordFits s c rec t x → recordOp rec = 1 →
    let fails := fun code => exec .place s = .next (s.recordFailed c rest r (recordId rec) code)
    (∀ b, x.body = .sub b →
      ((rec.length < 20 ∨ 15 < (byteAt rec 16).toNat ∨ 31 < (byteAt rec 17).toNat ∨ (byteAt rec 19).toNat = 0 ∨
          4 < (byteAt rec 19).toNat ∨ linesOf (byteAt rec 19).toNat (rec.drop 20) = none ∨
          ∃ ls, linesOf (byteAt rec 19).toNat (rec.drop 20) = some ls ∧ ∃ l ∈ ls, l.length = 0 ∨ 96 < l.length) →
        fails .range) ∧
      ∀ pl, subPlaceOf rec = some pl →
        (r.timebase.tick pl.startUnit = none ∨ r.timebase.tick pl.endUnit = none → fails .range) ∧
        ∀ a z, r.timebase.tick pl.startUnit = some a → r.timebase.tick pl.endUnit = some z →
          (z ≤ a → fails .range) ∧
          (a < z →
            (z ≤ r.cutLine ∨
              (x.state = .concealing ∧ r.cutLine < z ∧ ∃ f e, b.window = some ⟨f, some e, .span⟩ ∧ f ≤ max a r.cutLine ∧
                max a r.cutLine < e) ∨
              (r.cutLine < z ∧ (∃ stop, x.Admits b (max a r.cutLine) z stop) ∧
                ∃ y, b.cues.find? (fun y => y.id == pl.id) = some y ∧ y.emitted = true)) →
            fails .late) ∧
          (a < z → r.cutLine < z → (∃ stop, x.Admits b (max a r.cutLine) z stop) →
            (∀ y ∈ b.cues, y.id = pl.id → y.emitted = false) →
            ¬ s.RoomFor b.cues.length pl.lines.length ((b.cues.find? fun y => y.id == pl.id).map fun y => y.lines.length) →
            fails .full)) ∧
    (∀ b, x.body = .ad b →
      ((rec.length ≠ 26 ∨ fieldAt rec 16 4 = 0 ∨ (byteAt rec 20).toNat = 0 ∨ 64 < (byteAt rec 20).toNat ∨
          fieldAt rec 12 4 < fieldAt rec 8 4) → fails .range) ∧
      ∀ pl, adPlaceOf rec = some pl →
        (r.timebase.tick pl.earliestUnit = none ∨ r.timebase.tick pl.latestUnit = none → fails .range) ∧
        ∀ a z, r.timebase.tick pl.earliestUnit = some a → r.timebase.tick pl.latestUnit = some z →
          (z < r.audioLine ∨ (∃ k, b.engine.current? = some k ∧ k.id = pl.id) → fails .late) ∧
          (r.audioLine ≤ z → (∀ k, b.engine.current? = some k → k.id ≠ pl.id) →
            ¬ s.RoomFor b.cues.length 0 ((b.cues.find? fun y => y.id == pl.id).map fun _ => 0) → fails .full))

/-- R21, R41 to R44, R79: a subtitle cue that starts at or after F, inserted into a track CONCEALING until it resumes, takes its place in the
list like any other and is counted, and X is lowered to its start; when X comes to the cut line the concealment completes in the same step. The
loader goes on. That a replacement that is trimmed counts in the cues trimmed as well is the model's choice (log 30). -/
def Obligations.PlaceResolvesTheWindowItResumes : Prop :=
  ∀ (s : State) (c : CueLoading) (rec : List Byte) (rest : List (List Byte)) (r : Programme) (t : TrackSlot) (x : Track)
    (b : SubTrack) (pl : SubPlace) (a z f : Nat) (e : Option Nat),
    AtRecord s c rec rest r → RecordFits s c rec t x → recordOp rec = 1 → x.body = .sub b → x.state = .concealing →
    b.window = some ⟨f, e, .untilResume⟩ → f ≤ max a r.cutLine →
    subPlaceOf rec = some pl → r.timebase.tick pl.startUnit = some a → r.timebase.tick pl.endUnit = some z →
    a < z → r.cutLine < z → (∀ y ∈ b.cues, y.id = pl.id → y.emitted = false) →
    s.RoomFor b.cues.length pl.lines.length ((b.cues.find? fun y => y.id == pl.id).map fun y => y.lines.length) →
      let lowered := min (max a r.cutLine) (e.getD (max a r.cutLine))
      let cue : SubCue := {
        id := pl.id
        start := max a r.cutLine
        stop := z
        region := pl.region
        style := pl.style
        forced := pl.forced
        lines := pl.lines
        trimmed := decide (a < r.cutLine)
        emitted := false }
      let b' : SubTrack := { b with
        window := some ⟨f, some lowered, .untilResume⟩
        cues := insertBy SubCue.before cue (b.cues.filter fun y => y.id != pl.id) }
      let counted : Programme := { r with counters := { r.counters with
        cuesAccepted := min 4294967295 (r.counters.cuesAccepted + 1)
        cuesTrimmed := if a < r.cutLine then min 4294967295 (r.counters.cuesTrimmed + 1) else r.counters.cuesTrimmed } }
      (r.cutLine < lowered → exec .place s
        = .next { (s.setTrack t (some { x with body := .sub b' })).setProg c.prog (some counted) with
          loading := leftToLoad c rest }) ∧
      (lowered ≤ r.cutLine → exec .place s
        = .next { (s.setTrack t (some { x with
              state := .active
              body := .sub { b' with outcome := some .repaired } })).setProg c.prog
            (some { counted with notice := { r.notice with
              concealDone := true
              concealTracks := r.notice.concealTracks ||| 1#64 <<< t.val } }) with
          loading := leftToLoad c rest })

/-- R36, R37, R40, R42 to R44: a description PLACE record carries its fields in its bytes, an override above 32,768 stored as 32,768. One
that is not late and whose id is not the current cue's is inserted PENDING in the order of its earliest tick; an older cue of its id is
replaced, and counts as freed in the test for room. -/
def Obligations.PlaceInsertsADescriptionCue : Prop :=
  (∀ rec : List Byte, rec.length = 26 → fieldAt rec 16 4 ≠ 0 → 1 ≤ (byteAt rec 20).toNat → (byteAt rec 20).toNat ≤ 64 →
    fieldAt rec 8 4 ≤ fieldAt rec 12 4 →
    adPlaceOf rec = some {
      id := fieldAt rec 4 4
      earliestUnit := fieldAt rec 8 4
      latestUnit := fieldAt rec 12 4
      clip := fieldAt rec 16 4
      hold := (byteAt rec 20).toNat
      strict := (byteAt rec 21).getLsbD 0
      gn := if (byteAt rec 21).getLsbD 1 = true then some (min (fieldAt rec 22 2) 32768) else none
      gd := if (byteAt rec 21).getLsbD 2 = true then some (min (fieldAt rec 24 2) 32768) else none }) ∧
  (∀ x y : AdCue, x.before y = true ↔ x.earliest < y.earliest ∨ (x.earliest = y.earliest ∧ x.id < y.id)) ∧
  (∀ (x : AdCue) (cues : List AdCue), ∃ front back, cues = front ++ back ∧
    insertBy AdCue.before x cues = front ++ x :: back ∧ (∀ y ∈ front, x.before y = false) ∧
    ∀ y, back.head? = some y → x.before y = true) ∧
  ∀ (s : State) (c : CueLoading) (rec : List Byte) (rest : List (List Byte)) (r : Programme) (t : TrackSlot) (x : Track)
    (b : AdTrack) (pl : AdPlace) (a z : Nat),
    AtRecord s c rec rest r → RecordFits s c rec t x → recordOp rec = 1 → x.body = .ad b →
    adPlaceOf rec = some pl → r.timebase.tick pl.earliestUnit = some a → r.timebase.tick pl.latestUnit = some z →
    r.audioLine ≤ z → (∀ k, b.engine.current? = some k → k.id ≠ pl.id) →
    s.RoomFor b.cues.length 0 ((b.cues.find? fun y => y.id == pl.id).map fun _ => 0) →
      let cue : AdCue := ⟨pl.id, a, z, pl.clip, pl.hold, pl.strict, pl.gn, pl.gd, .pending⟩
      let cues := insertBy AdCue.before cue (b.cues.filter fun y => y.id != pl.id)
      exec .place s = .next { (s.setTrack t (some { x with body := .ad { b with cues := cues } })).setProg c.prog
          (some { r with counters := { r.counters with
            cuesAccepted := min 4294967295 (r.counters.cuesAccepted + 1) } }) with
        loading := leftToLoad c rest }

/-- R32, R38, R45, R46, R163: a WITHDRAW removes a subtitle cue that is not emitted or a description cue in the list that is not current; it
fails with LATE for an emitted or a current cue, with ABSENT for no cue, and with RANGE for a wrong record length. A record of any other op
fails with RANGE. Whatever its op, a record whose track slot is above 63, FREE, CLOSING or of another programme fails with ABSENT, the track
slot posted as the byte carried (log 26), and one whose kind is not the track's or whose cue id is 0 with RANGE. A record reached in HALTED
ends the parcel with one failure HALTED. -/
def Obligations.WithdrawRemovesACueAndOtherOpsFail : Prop :=
  (∀ (s : State) (c : CueLoading) (rec : List Byte) (rest : List (List Byte)) (r : Programme) (t : TrackSlot) (x : Track),
    AtRecord s c rec rest r → RecordFits s c rec t x → recordOp rec = 2 →
    let id := recordId rec
    (rec.length ≠ 8 → exec .withdraw s = .next (s.recordFailed c rest r id .range)) ∧
    (∀ b, x.body = .sub b → rec.length = 8 →
      (∀ y, b.cues.find? (fun y => y.id == id) = some y → y.emitted = false →
        exec .withdraw s = .next { s.setTrack t (some { x with
            body := .sub { b with cues := b.cues.filter fun y => y.id != id } }) with
          loading := leftToLoad c rest }) ∧
      (∀ y, b.cues.find? (fun y => y.id == id) = some y → y.emitted = true →
        exec .withdraw s = .next (s.recordFailed c rest r id .late)) ∧
      ((∀ y ∈ b.cues, y.id ≠ id) → exec .withdraw s = .next (s.recordFailed c rest r id .absent))) ∧
    (∀ b, x.body = .ad b → rec.length = 8 →
      ((∀ k, b.engine.current? = some k → k.id ≠ id) → (∃ y ∈ b.cues, y.id = id) →
        exec .withdraw s = .next { s.setTrack t (some { x with
            body := .ad { b with cues := b.cues.filter fun y => y.id != id } }) with
          loading := leftToLoad c rest }) ∧
      (∀ k, b.engine.current? = some k → k.id = id → exec .withdraw s = .next (s.recordFailed c rest r id .late)) ∧
      ((∀ k, b.engine.current? = some k → k.id ≠ id) → (∀ y ∈ b.cues, y.id ≠ id) →
        exec .withdraw s = .next (s.recordFailed c rest r id .absent)))) ∧
  (∀ (s : State) (c : CueLoading) (rec : List Byte) (rest : List (List Byte)) (r : Programme),
    AtRecord s c rec rest r → recordOp rec ≠ 1 → recordOp rec ≠ 2 → ∀ t x, RecordFits s c rec t x →
      exec .cueRecordOtherOp s = .next (s.recordFailed c rest r (recordId rec) .range)) ∧
  (∀ (s : State) (cmd : Instr) (c : CueLoading) (rec : List Byte) (rest : List (List Byte)) (r : Programme),
    s.loading = some (.cueload c) → c.records = rec :: rest → s.prog c.prog = some r →
    ((cmd = .place ∧ recordOp rec = 1) ∨ (cmd = .withdraw ∧ recordOp rec = 2) ∨
      (cmd = .cueRecordOtherOp ∧ recordOp rec ≠ 1 ∧ recordOp rec ≠ 2)) →
    (r.state = .halted → exec cmd s = .next { s.setProg c.prog (some (r.post ⟨.halted, .cueload, none, none, c.ordinal⟩)) with
      loading := none }) ∧
    (r.state ≠ .halted →
      (63 < c.track ∨ ∃ t : TrackSlot, c.track = t.val ∧
        (s.track t = none ∨ ∃ x, s.track t = some x ∧ (x.prog ≠ c.prog ∨ x.state = .closing))) →
      exec cmd s = .next (s.recordFailed c rest r (recordId rec) .absent)) ∧
    (r.state ≠ .halted → ∀ (t : TrackSlot) (x : Track), c.track = t.val → s.track t = some x → x.prog = c.prog →
      x.state ≠ .closing → recordKind rec ≠ x.body.kindNumber ∨ recordId rec = 0 →
      exec cmd s = .next (s.recordFailed c rest r (recordId rec) .range)))

/-- R85 to R91, R163: a page carries its fields in its bytes. One that passes the tests is stored at its index in the clip of its id, which its
first page creates. RANGE refuses one with a field out of range or another declared count than its clip's, LATE one for a clip that is being
played, FULL one that finds no clip record or no page free; a refused page is posted with its clip id and changes no clip. In HALTED it is
dropped and posted HALTED; in DRAINING and CLOSING it is tested as in ACTIVE. -/
def Obligations.NarrationPageIsStoredOrRefused : Prop :=
  (∀ body : List Byte, body.length = 970 →
    let g := pageOf body
    g.clip = fieldAt body 0 4 ∧ g.index = fieldAt body 4 2 ∧ g.declared = fieldAt body 6 2 ∧ g.valid = fieldAt body 8 2 ∧
    g.samples.length = 480 ∧ ∀ i, i < 480 → g.samples[i]? = some (byteAt body (10 + 2 * i) ++ byteAt body (11 + 2 * i))) ∧
  (∀ (s : State) (p : ProgSlot) (id : Nat), s.playing p id = true ↔
    ∃ t x a n k, s.track t = some x ∧ x.prog = p ∧ x.body = .ad a ∧ a.engine = .play n k ∧ k.clip = id) ∧
  (∀ (s : State) (q : Parcel) (o : BitVec 32) (r : Programme),
    s.loading = some (.narration q o) → s.prog q.slot = some r → r.state = .halted →
      exec .narrationPage s = .next { s.setProg q.slot
          (some (r.post ⟨.halted, .narration, none, some (pageOf q.body).clip, o⟩)) with
        loading := none }) ∧
  ∀ (s : State) (q : Parcel) (o : BitVec 32) (r : Programme),
    s.loading = some (.narration q o) → s.prog q.slot = some r → r.state ≠ .halted →
    let g := pageOf q.body
    let valid : Option Nat → Option Nat := fun old => if g.index + 1 = g.declared then some g.valid else old
    let refused : ResultCode → Prop := fun code => exec .narrationPage s = .next { s.setProg q.slot
        (some (r.post ⟨code, .narration, none, some g.clip, o⟩)) with
      loading := none }
    (g.clip = 0 ∨ g.declared = 0 ∨ 3000 < g.declared ∨ g.declared ≤ g.index ∨ g.valid = 0 ∨ 480 < g.valid ∨
      (g.index + 1 ≠ g.declared ∧ g.valid ≠ 480) → refused .range) ∧
    (g.clip ≠ 0 → 1 ≤ g.declared → g.declared ≤ 3000 → g.index < g.declared → 1 ≤ g.valid → g.valid ≤ 480 →
    (g.index + 1 = g.declared ∨ g.valid = 480) →
    (∀ k, s.clip? q.slot g.clip = some k → k.declared ≠ g.declared → refused .range) ∧
    (s.clip? q.slot g.clip = none → 512 ≤ s.clips.length ∨ 16384 ≤ s.pagesInUse → refused .full) ∧
    (∀ k, s.clip? q.slot g.clip = some k → k.declared = g.declared → s.playing q.slot g.clip = false →
      k.present g.index = false → 16384 ≤ s.pagesInUse → refused .full) ∧
    (s.clip? q.slot g.clip = none → s.clips.length < 512 → s.pagesInUse < 16384 →
      exec .narrationPage s = .next { s with
        loading := none
        clips := s.clips ++ [⟨q.slot, g.clip, g.declared,
          (List.replicate g.declared none).set g.index (some g.samples), valid none⟩] }) ∧
    (∀ k, s.clip? q.slot g.clip = some k → k.declared = g.declared → s.playing q.slot g.clip = false →
      (k.present g.index = true ∨ s.pagesInUse < 16384) →
      exec .narrationPage s = .next { s with
        loading := none
        clips := s.clips.map fun k => if k.prog = q.slot ∧ k.id = g.clip then
            { k with pages := k.pages.set g.index (some g.samples), lastValid := valid k.lastValid }
          else k }) ∧
    (∀ k, s.clip? q.slot g.clip = some k → k.declared = g.declared → s.playing q.slot g.clip = true → refused .late))

/-! ### The segment cutter -/

/-- R53, R54: a mark of no programme or of another stream is dropped, one of a HALTED programme is discarded, one in a drain is counted
as discarded; an ACTIVE programme's mark waits for a FREE buffer and is refused with RANGE when a check fails. -/
def Obligations.MarkThatIsNotCut : Prop :=
  ∀ (s : State) (m : Mark) (rest : List Mark), s.markQ = m :: rest →
    let taken := { s with markQ := rest }
    (s.prog m.prog = none → exec .markTaken s = .next taken.oneDropped) ∧
    (∀ r, s.prog m.prog = some r →
      (r.stream ≠ m.stream → exec .markTaken s = .next taken.oneDropped) ∧
      (r.stream = m.stream → r.state = .halted → exec .markTaken s = .next taken) ∧
      (r.stream = m.stream → r.state = .draining ∨ r.state = .closing → exec .markTaken s = .next taken.oneDiscarded) ∧
      (r.stream = m.stream → r.state = .active → 2 ≤ s.cuts.length → exec .markTaken s = .next s) ∧
      (r.stream = m.stream → r.state = .active → s.cuts.length < 2 →
        (maxTick < m.s ∨ maxTick < m.e ∨ m.e ≤ m.s ∨ 5400000 < m.e - m.s ∨ (∃ k, r.lastSegment = some k ∧ m.k ≤ k) ∨
          m.s < r.cutLine) →
        exec .markTaken s
          = .next (taken.setProg m.prog (some (r.post ⟨.range, .segmark, none, some m.k, m.ordinal⟩)))))

/-- R56, R57, R60, R63 to R65, R68, R82: the take moves the cut line to E and the segment number to k, counts the segment, the cues a gap
skips and the entries dropped, raises SEGMENT-GAP for a gap that is no first cut, and posts one FULL for each track whose entries overflowed,
in track-list order. It retires every subtitle cue of the programme that ends at or before E and marks emitted those that gave kept entries: of
an ACTIVE track whose entries are all kept, every one it cut. A CONCEALING track whose X is at or below E returns to ACTIVE with REPAIRED, and
CONCEAL-DONE is raised with it. A cut buffer is filled with the SUBSEG of each selected track, in track-list order. -/
def Obligations.TakeMovesTheCutLineAndFillsABuffer : Prop :=
  ∀ (s : State) (m : Mark) (rest : List Mark) (r : Programme), MarkAccepted s m rest r →
    let selected := r.tracks.filter fun t => (s.track t).any fun x => x.state != .closing && x.sub?.isSome
    let parts : List TrackCut :=
      selected.filterMap fun t => (s.track t).bind fun x => x.sub?.map fun b => s.cutTrack m ⟨t, x, b⟩
    let full := parts.filter fun u => u.seg.overflow
    let skipped := (selected.map fun t => ((s.sub? t).map fun b => b.cues.countP fun c => decide (c.stop ≤ m.s)).getD 0).sum
    ∃ (t' : State) (n : NoticeSlot), exec .markTaken s = .next t' ∧
      t'.prog m.prog = some { r with
        state := if full ≠ [] ∧ r.escalation.getLsbD 3 = true then .halted else .active
        cutLine := m.e
        lastSegment := some m.k
        firstError := r.firstError.or
          (full.head?.map fun u => ⟨.full, .segmark, some u.seg.track.val, some m.k, m.ordinal⟩)
        failureCount := if full = [] then r.failureCount else min 65535 (r.failureCount + full.length)
        haltCode := if full ≠ [] ∧ r.escalation.getLsbD 3 = true then some .full else r.haltCode
        notice := n
        counters := { r.counters with
          cuesSkipped :=
            if r.cutLine < m.s then min 4294967295 (r.counters.cuesSkipped + skipped) else r.counters.cuesSkipped
          segmentsCut := min 4294967295 (r.counters.segmentsCut + 1)
          entriesOverflowed := min 4294967295 (r.counters.entriesOverflowed + (parts.map (·.dropped)).sum) } } ∧
      (n.halted = true ↔ r.notice.halted = true ∨ (full ≠ [] ∧ r.escalation.getLsbD 3 = true)) ∧
      (n.firstError = true ↔ r.notice.firstError = true ∨ (full ≠ [] ∧ r.firstError = none)) ∧
      (n.segmentGap = true ↔ r.notice.segmentGap = true ∨ (r.cutLine < m.s ∧ r.lastSegment ≠ none)) ∧
      (n.concealDone = true ↔ r.notice.concealDone = true ∨ ∃ t ∈ r.tracks, s.ConcealEndsAt t m.e) ∧
      (∀ t : TrackSlot, n.concealTracks.getLsbD t.val = true ↔
        r.notice.concealTracks.getLsbD t.val = true ∨ (t ∈ r.tracks ∧ s.ConcealEndsAt t m.e)) ∧
      n.eventMissed = r.notice.eventMissed ∧ n.missedTracks = r.notice.missedTracks ∧
      t'.cuts = (if selected = [] then s.cuts else s.cuts ++ [⟨m.prog, parts.map (·.seg)⟩]) ∧
      parts.map (fun u => u.seg.track) = selected ∧
      (∀ u ∈ parts, u.seg.k = m.k ∧ u.seg.start = m.s ∧ u.seg.length = m.e - m.s) ∧
      (∀ t ∈ r.tracks, ∀ b, t'.sub? t = some b → ∀ c ∈ b.cues, m.e < c.stop) ∧
      (∀ t ∈ r.tracks, ∀ x b, s.track t = some x → x.body = .sub b →
        let left := b.cues.filter fun c => decide (m.e < c.stop)
        let cues := left.map fun c => if c.id ∈ (s.cutTrack m ⟨t, x, b⟩).kept then { c with emitted := true } else c
        (x.state = .closing → t'.track t = some { x with body := .sub { b with cues := left } }) ∧
        (x.state ≠ .closing → ¬ s.ConcealEndsAt t m.e →
          t'.track t = some { x with body := .sub { b with cues := cues } }) ∧
        (s.ConcealEndsAt t m.e → t'.track t = some { x with
          state := .active
          body := .sub { b with outcome := some .repaired, cues := cues } }) ∧
        (x.state = .active → (b.cues.map (·.id)).Nodup →
          (b.cues.filter fun c => decide (c.start < m.e) && decide (m.s < c.stop)).length ≤ 24 →
          cues = left.map fun c => if c.start < m.e then { c with emitted := true } else c)) ∧
      (∀ t, t ∉ r.tracks ∨ s.sub? t = none → t'.track t = s.track t) ∧
      (∀ p, p ≠ m.prog → t'.prog p = s.prog p) ∧
      t' = { s with markQ := rest, progs := t'.progs, tracks := t'.tracks, cuts := t'.cuts }

/-- R8, R49, R58 to R62, R67, R80, R81: the entries of one track's SUBSEG are the first 24 of its own and concealment entries in the order of
R59, each inside the segment and not empty. An own entry is a cue that overlaps the segment. A concealment entry is a cue of the reference, if
that is present and ACTIVE, that overlaps the part of the window of a CONCEALING track in the segment: it is clipped to that part, bears the
reference cue's id, region, lines, TRIMMED and FORCED and the style of the reference's table, and has CONCEALED set; its CONT-IN and CONT-OUT
are judged in [F, X). The flags of the segment say what was dropped, what could not be filled and whether a table was loaded. CONT-IN is not
set for an own cue whose start stands raised to S, as R61 says against chapter 5's prose (log 28). -/
def Obligations.EntriesOfACutLieInTheSegmentInOrder : Prop :=
  (StyleTable.default.entries = [⟨.centre, .bottom, 0, .box, .normal, false⟩, ⟨.centre, .top, 0, .box, .normal, false⟩,
    ⟨.left, .bottom, 0, .box, .normal, false⟩, ⟨.centre, .bottom, 0, .box, .normal, true⟩]) ∧
  (∀ es, (StyleTable.loaded es).entries = es) ∧
  (∀ (table : StyleTable) (i : Nat) (e : Style), table.entries[i]? = some e → table.resolve i = (e, false)) ∧
  (∀ (table : StyleTable) (i : Nat) (e : Style), table.entries[i]? = none → table.entries.head? = some e →
    table.resolve i = (e, true)) ∧
  ∀ (s : State) (m : Mark) (x : SubOf), m.s < m.e →
    (∀ c ∈ x.sub.cues, c.start < c.stop) →
    (∀ b t, x.sub.reference = some t → s.sub? t = some b → ∀ c ∈ b.cues, c.start < c.stop) →
    let cut := s.cutTrack m x
    let u := cut.seg
    let own : List Entry := (x.sub.cues.filter fun c => decide (c.start < m.e) && decide (m.s < c.stop)).map fun c => {
      id := c.id
      relStart := max c.start m.s - m.s
      relEnd := min c.stop m.e - m.s
      region := c.region
      style := (x.sub.styles.resolve c.style).1
      flags := ⟨decide (c.start < m.s), decide (m.e < c.stop), c.trimmed, c.forced, false, (x.sub.styles.resolve c.style).2⟩
      lines := c.lines }
    let able : Option SubTrack :=
      (x.sub.reference.bind s.track).bind fun y => if y.state = .active then y.sub? else none
    let before : Window → Nat → Nat := fun w tick => (w.x.map (min tick)).getD tick
    let windowed : Option Window :=
      (if x.track.state = .concealing then x.sub.window else none).filter fun w => max w.f m.s < before w m.e
    let concealed : List Entry :=
      match windowed, able with
      | some w, some ref =>
        (ref.cues.filter fun c => decide (c.start < before w m.e) && decide (max w.f m.s < c.stop)).map fun c => {
          id := c.id
          relStart := max c.start (max w.f m.s) - m.s
          relEnd := min c.stop (before w m.e) - m.s
          region := c.region
          style := (ref.styles.resolve c.style).1
          flags := ⟨decide (max c.start w.f < m.s), decide (m.e < before w c.stop), c.trimmed, c.forced, true,
            (ref.styles.resolve c.style).2⟩
          lines := c.lines }
      | _, _ => []
    (∃ dropped : List Entry, (u.entries ++ dropped).Perm (own ++ concealed) ∧ dropped.length = cut.dropped ∧
      (u.entries ++ dropped).Pairwise fun e e' => e.relStart < e'.relStart ∨ (e.relStart = e'.relStart ∧
        ((e.flags.concealed = false ∧ e'.flags.concealed = true) ∨
          (e.flags.concealed = e'.flags.concealed ∧ e.id ≤ e'.id)))) ∧
    u.entries.length = min 24 (own.length + concealed.length) ∧
    (∀ e ∈ u.entries, e.relStart < e.relEnd ∧ e.relEnd ≤ m.e - m.s) ∧
    cut.kept = (u.entries.filter fun e => !e.flags.concealed).map (·.id) ∧
    (u.overflow = true ↔ 24 < own.length + concealed.length) ∧
    (u.concealedGap = true ↔ windowed ≠ none ∧ able = none) ∧
    (u.styleLoaded = true ↔ ∃ es, x.sub.styles = .loaded es) ∧
    u.track = x.slot ∧ u.stream = x.track.stream ∧ u.tag = x.track.tag ∧ u.k = m.k ∧ u.start = m.s ∧ u.length = m.e - m.s

/-- R65 to R67, R162 to R164: the QUEUING buffer places its next SUBSEG when the SEG queue has room; with the last it is FREE, and the buffer
behind it is next. The parcel bears the track's output stream and the programme slot, and its body the track, the segment, the flags and the
entries, each with its style and its lines. -/
def Obligations.SubsegIsPlacedInTrackOrder : Prop :=
  (∀ (unit : BitVec 4) (p : ProgSlot) (u : SubSeg),
    let entry : Entry → List Byte := fun e => be 4 e.id ++ be 4 e.relStart ++ be 4 e.relEnd ++ be 1 e.region ++ styleOnLane e.style
      ++ be 1 (e.flags.contIn.toNat + 2 * e.flags.contOut.toNat + 4 * e.flags.trimmed.toNat + 8 * e.flags.forced.toNat
        + 16 * e.flags.concealed.toNat + 32 * e.flags.styleDefaulted.toNat)
      ++ be 1 e.lines.length ++ e.lines.flatMap fun l => be 1 l.length ++ l
    (subsegParcel unit p u).bytes = laneBytes 0x06 unit p u.stream
      (be 1 u.track.val ++ be 1 u.tag.length ++ u.tag ++ List.replicate (8 - u.tag.length) 0 ++ be 4 u.k ++ be 8 u.start
        ++ be 4 u.length ++ be 1 (u.styleLoaded.toNat + 2 * u.concealedGap.toNat + 4 * u.overflow.toNat)
        ++ be 1 u.entries.length ++ u.entries.flatMap entry)) ∧
  ∀ (s : State) (p : ProgSlot) (u : SubSeg) (left : List SubSeg) (rest : List Cut), s.cuts = ⟨p, u :: left⟩ :: rest →
    (s.egress.seg.length < 16 →
      exec .subsegPlaced s = .next { s with
        egress := { s.egress with seg := s.egress.seg ++ [subsegParcel s.rx.address p u] }
        cuts := if left = [] then rest else ⟨p, left⟩ :: rest }) ∧
    (16 ≤ s.egress.seg.length → exec .subsegPlaced s = .next s)

/-! ### The audio path -/

/-- R18, R98 to R102: a copy taken in ACTIVE or HALTED moves the audio line to its parcel tick and is judged by its quiet thirds; it becomes
the current parcel if it serves a track, and its tracks are stepped only when it was taken in ACTIVE. It serves the ACTIVE AD tracks of the
programme, in track-list order. One whose slot is FREE or holds another stream is dropped, one taken in CLOSING is counted as discarded; one
taken in DRAINING becomes the current parcel of the tracks it serves like the others, changes no record and steps no track. -/
def Obligations.AudioTakeMovesTheLineAndJudges : Prop :=
  (∀ (s : State) (c : AudioCopy) (rest : List AudioCopy) (r : Programme),
    s.audio = none → s.audioQ = c :: rest → s.prog c.prog = some r → r.stream = c.stream →
    r.state = .active ∨ r.state = .halted →
    let sub := c.substituted || decide (maxTick < c.carriedTick)
    let t := if sub = true then (if r.audioLine + 900 ≤ maxTick then r.audioLine + 900 else r.audioLine) else c.carriedTick
    let quiet := fun i => ((c.samples.drop (320 * i)).take 320).all fun x => x.toInt.natAbs ≤ r.threshold
    let n := if sub = true then 0 else [0, 1, 2].countP quiet
    let served := r.tracks.filter fun t => (s.track t).any fun x => x.state == .active && x.ad?.isSome
    exec .audioTake s = .next { s.setProg c.prog (some { r with
        audioLine := t
        quietRun := if 2 ≤ n then min 255 (r.quietRun + 1) else 0
        strictRun := if n = 3 then min 255 (r.strictRun + 1) else 0
        counters := { r.counters with
          quietParcels := if n = 3 then min 4294967295 (r.counters.quietParcels + 1) else r.counters.quietParcels
          marginalParcels :=
            if n = 2 then min 4294967295 (r.counters.marginalParcels + 1) else r.counters.marginalParcels } }) with
      audioQ := rest
      audio := if served = [] then none else some {
        copy := { c with substituted := sub }
        tick := t
        takenIn := r.state
        served := served
        toRender := served
        toStep := if r.state = .active then served else []
        rendered := none
        inFlight := false } }) ∧
  (∀ (s : State) (c : AudioCopy) (rest : List AudioCopy), s.audio = none → s.audioQ = c :: rest →
    let taken := { s with audioQ := rest }
    (s.prog c.prog = none → exec .audioTake s = .next taken.oneDropped) ∧
    (∀ r, s.prog c.prog = some r →
      (r.stream ≠ c.stream → exec .audioTake s = .next taken.oneDropped) ∧
      (r.stream = c.stream → r.state = .closing → exec .audioTake s = .next taken.oneDiscarded) ∧
      (r.stream = c.stream → r.state = .draining →
        let sub := c.substituted || decide (maxTick < c.carriedTick)
        let served := r.tracks.filter fun t => (s.track t).any fun x => x.state == .active && x.ad?.isSome
        exec .audioTake s = .next { taken with
          audio := if served = [] then none else some {
            copy := { c with substituted := sub }
            tick := if sub = true then (if r.audioLine + 900 ≤ maxTick then r.audioLine + 900 else r.audioLine)
              else c.carriedTick
            takenIn := .draining
            served := served
            toRender := served
            toStep := []
            rendered := none
            inFlight := false } })))

/-- R118: a COPY rendering carries the programme's samples, clips nothing and leaves the current gain; full gain without narration gives the
same value for every sample. It is made from an IDLE engine for a copy taken in ACTIVE, and flagged HALTED from every engine for one taken in
HALTED or DRAINING (R116, R117, R124). The AD-AUDIO parcel bears the track's output stream and the programme slot, and its body the track, the
tag, the parcel tick, the rendering, the flags, the cue id, the clipped count and the samples (R162 to R164); the samples of a whole copy stand
in it as they stood in its PROG-AUDIO body (R163). -/
def Obligations.CopyRenderingsEqualTheProgramme : Prop :=
  (∀ (s : State) (w : AudioWork) (t : TrackSlot) (rest : List TrackSlot) (x : Track) (a : AdTrack) (r : Programme),
    AtRendering s w t rest x a r → w.copy.substituted = false →
    (w.takenIn = .active ∧ a.engine = .idle ∨ w.takenIn = .halted ∨ w.takenIn = .draining) →
      ∃ t', exec .adAudioPlaced s = .next t' ∧
        t'.egress = { s.egress with
          mix := s.egress.mix ++ [adAudioParcel s.rx.address w.copy.prog t x.stream x.tag w.tick
            ⟨.copy, none, decide (w.takenIn ≠ .active), false, 0, w.copy.samples⟩] } ∧
        t'.audio = (if rest = [] ∧ w.toStep = [] then none else some { w with toRender := rest }) ∧
        (∀ u, t'.track u = s.track u) ∧ (∀ p, t'.prog p = s.prog p) ∧
        t' = { s with progs := t'.progs, tracks := t'.tracks, egress := t'.egress, audio := t'.audio }) ∧
  (∀ (p : Sample) (gn : Nat), clampSample (mixSample p 0 32768 gn) = p ∧ outOfRange (mixSample p 0 32768 gn) = false) ∧
  (∀ (unit : BitVec 4) (p : ProgSlot) (t : TrackSlot) (stream : Byte) (tag : List Byte) (tick : Nat) (x : Rendering),
    (adAudioParcel unit p t stream tag tick x).bytes = laneBytes 0x07 unit p stream
      (be 1 t.val ++ be 1 tag.length ++ tag ++ List.replicate (8 - tag.length) (0 : Byte) ++ be 8 tick
        ++ be 1 (match x.kind with | .copy => 0 | .ramp => 1 | .narration => 2 | .silent => 3)
        ++ be 1 (x.halted.toNat + 2 * x.substituted.toNat + 4 * x.cueId.isSome.toNat) ++ be 4 (x.cueId.getD 0)
        ++ be 2 x.clipped ++ x.samples.flatMap fun y => be 2 y.toNat)) ∧
  (∀ c : AudioCopy, c.body.length = 1928 → c.samples.length = 960 ∧
    (c.samples.flatMap fun y => be 2 y.toNat) = c.body.drop 8 ∧
    ∀ i, i < 960 → c.samples[i]? = some (byteAt c.body (8 + 2 * i) ++ byteAt c.body (9 + 2 * i)))

/-- R116, R117, R119 to R124: a copy taken in ACTIVE rendered from an engine that holds a cue: RAMP in ATTACK and RELEASE, NARRATION in PLAY,
SILENT when substituted; the current gain becomes that of the parcel's last frame, and the clipped samples are counted. A substituted copy is
SILENT too from IDLE, and flagged HALTED from every engine when taken in HALTED or DRAINING; then nothing but the queues is written. Frame i of
a NARRATION takes sample i of the page, and 0 at and after the valid samples of the clip's last page. A rendering that finds MIX full is made
and held, and is placed when MIX has room (log 21). -/
def Obligations.MixedRenderingsWriteTheGain : Prop :=
  (∀ (s : State) (w : AudioWork) (t : TrackSlot) (rest : List TrackSlot) (x : Track) (a : AdTrack) (r : Programme)
    (k : CurrentCue),
    AtRendering s w t rest x a r → w.takenIn = .active → a.engine.current? = some k →
    ∃ (kind : RenderKind) (ys : List Int) (gain : Nat),
      (w.copy.substituted = true → kind = .silent) ∧
      (∀ m, a.engine = .attack m k →
        gain = rampGain a.rampStart a.rampTarget a.attack (480 * (a.attack - m) + 479) ∧
        (w.copy.substituted = false → kind = .ramp ∧ ys = mixFrames
          (fun i => rampGain a.rampStart a.rampTarget a.attack (480 * (a.attack - m) + i)) (fun _ => 0) 0 0 w.copy.samples)) ∧
      (∀ m, a.engine = .release m k →
        gain = rampGain a.rampStart a.rampTarget a.release (480 * (a.release - m) + 479) ∧
        (w.copy.substituted = false → kind = .ramp ∧ ys = mixFrames
          (fun i => rampGain a.rampStart a.rampTarget a.release (480 * (a.release - m) + i)) (fun _ => 0) 0 0
          w.copy.samples)) ∧
      (∀ n, a.engine = .play n k →
        gain = k.gd.getD a.gd ∧
        (w.copy.substituted = false → kind = .narration ∧ ys = mixFrames (fun _ => k.gd.getD a.gd)
          (s.narration w.copy.prog k n) (k.gn.getD a.gn) 0 w.copy.samples)) ∧
      exec .adAudioPlaced s = .next { (s.setTrack t (some { x with body := .ad { a with gain := gain } })).setProg w.copy.prog
          (some { r with counters := { r.counters with
            clippedSamples := min 4294967295 (r.counters.clippedSamples
              + if kind = .silent then 0 else ys.countP outOfRange) } }) with
        egress := { s.egress with
          mix := s.egress.mix ++ [adAudioParcel s.rx.address w.copy.prog t x.stream x.tag w.tick (if kind = .silent then
              ⟨.silent, some k.id, false, true, 0, List.replicate 960 0⟩
            else ⟨kind, some k.id, false, false, ys.countP outOfRange, ys.map clampSample⟩)] }
        audio := if rest = [] ∧ w.toStep = [] then none else some { w with toRender := rest } }) ∧
  (∀ (s : State) (w : AudioWork) (t : TrackSlot) (rest : List TrackSlot) (x : Track) (a : AdTrack) (r : Programme),
    AtRendering s w t rest x a r → w.copy.substituted = true →
    (w.takenIn = .active ∧ a.engine = .idle ∨ w.takenIn = .halted ∨ w.takenIn = .draining) →
      ∃ t', exec .adAudioPlaced s = .next t' ∧
        t'.egress = { s.egress with
          mix := s.egress.mix ++ [adAudioParcel s.rx.address w.copy.prog t x.stream x.tag w.tick
            ⟨.silent, none, decide (w.takenIn ≠ .active), true, 0, List.replicate 960 0⟩] } ∧
        t'.audio = (if rest = [] ∧ w.toStep = [] then none else some { w with toRender := rest }) ∧
        (∀ u, t'.track u = s.track u) ∧ (∀ p, t'.prog p = s.prog p) ∧
        t' = { s with progs := t'.progs, tracks := t'.tracks, egress := t'.egress, audio := t'.audio }) ∧
  (∀ (s : State) (p : ProgSlot) (k : CurrentCue) (c : Clip) (page : Page) (n i : Nat),
    s.clip? p k.clip = some c → c.pages[n]? = some (some page) → i < 480 →
    (n + 1 ≠ c.declared → s.narration p k n i = page.getD i 0) ∧
    (n + 1 = c.declared → ∀ v, c.lastValid = some v → s.narration p k n i = if i < v then page.getD i 0 else 0)) ∧
  (∀ (s : State) (w : AudioWork) (t : TrackSlot) (rest : List TrackSlot) (x : Track) (a : AdTrack),
    s.audio = some w → w.rendered = none → w.toRender = t :: rest → s.track t = some x → x.body = .ad a →
    32 ≤ s.egress.mix.length →
    let roomy := { s with egress := { s.egress with mix := [] } }
    ∃ u p, exec .adAudioPlaced roomy = .next u ∧ u.egress = { s.egress with mix := [p] } ∧
      exec .adAudioPlaced s
        = .next { u with egress := s.egress, audio := some { w with toRender := rest, rendered := some p } }) ∧
  (∀ (s : State) (w : AudioWork) (p : Parcel), s.audio = some w → w.rendered = some p →
    (s.egress.mix.length < 32 → exec .adAudioPlaced s = .next { s with
      egress := { s.egress with mix := s.egress.mix ++ [p] }
      audio := if w.toRender = [] ∧ w.toStep = [] then none else some { w with rendered := none } }) ∧
    (32 ≤ s.egress.mix.length → exec .adAudioPlaced s = .next s))

/-- R121: the gain of frame k of a ramp over n parcels is ga + trunc((gb - ga) × (k + 1) / (480 × n)), truncated toward zero; every gain lies
between the start and the target, both included, and the last equals the target. -/
def Obligations.RampGainsLieBetweenTheirEnds : Prop :=
  ∀ ga gb n k : Nat, 1 ≤ n → k < 480 * n →
    (ga ≤ gb → rampGain ga gb n k = ga + (gb - ga) * (k + 1) / (480 * n)) ∧
    (gb ≤ ga → rampGain ga gb n k = ga - (ga - gb) * (k + 1) / (480 * n)) ∧
    min ga gb ≤ rampGain ga gb n k ∧ rampGain ga gb n k ≤ max ga gb ∧ rampGain ga gb n (480 * n - 1) = gb

/-- R119: the accumulator p × g + q × gn fits in 34 bits for every gain up to 32,768, and the output before the clamp is the accumulator
plus 16,384, divided by 32,768 and rounded down; the mixer takes one narration sample for both channels of a frame. -/
def Obligations.AccumulatorRoundsToNearestHalfUp : Prop :=
  (∀ (p q : Sample) (g gn : Nat), g ≤ 32768 → gn ≤ 32768 →
    -2147483648 ≤ p.toInt * g + q.toInt * gn ∧ p.toInt * g + q.toInt * gn ≤ 2147418112 ∧
      mixSample p q g gn = Int.floor (((p.toInt * g + q.toInt * gn + 16384 : Int) : ℚ) / 32768)) ∧
  (0x8000#16 : Sample).toInt * 32768 + (0x8000#16 : Sample).toInt * 32768 = -2147483648 ∧
  (0x7FFF#16 : Sample).toInt * 32768 + (0x7FFF#16 : Sample).toInt * 32768 = 2147418112 ∧
  mixSample 1#16 0#16 16384 0 = 1 ∧ mixSample 0xFFFF#16 0#16 16384 0 = 0 ∧ mixSample 0xFFFD#16 0#16 16384 0 = -1 ∧
  (∀ (g : Nat → Nat) (q : Nat → Sample) (gn i : Nat) (l r : Sample) (rest : List Sample),
    mixFrames g q gn i (l :: r :: rest)
      = mixSample l (q i) (g i) gn :: mixSample r (q i) (g i) gn :: mixFrames g q gn (i + 1) rest)

/-- R120: a value in the range of a sample is written unchanged, one outside it, which is what is counted, as the nearer end; with no
narration and a gain up to 32,768 nothing is clamped. -/
def Obligations.ClampKeepsSamplesInRange : Prop :=
  (∀ y : Int, (outOfRange y = false ↔ -32768 ≤ y ∧ y ≤ 32767) ∧
    (-32768 ≤ y → y ≤ 32767 → (clampSample y).toInt = y) ∧
    (32767 < y → (clampSample y).toInt = 32767) ∧ (y < -32768 → (clampSample y).toInt = -32768)) ∧
  (∀ (p : Sample) (g gn : Nat), g ≤ 32768 → outOfRange (mixSample p 0 g gn) = false)

/-! ### The event engine -/

/-- R104, R106, R110, R111: ATTACK, PLAY and RELEASE advance by one parcel at a step; the last attack parcel leads to PLAY at page 0, the last page to
the release from the current gain to 32,768. In RELEASE and IDLE the head is examined first; where it waits or there is none, RELEASE goes on
and IDLE stays. -/
def Obligations.AttackAndPlayAdvanceByOneParcel : Prop :=
  ∀ (s : State) (w : AudioWork) (t : TrackSlot) (rest : List TrackSlot) (r : Programme) (x : Track) (a : AdTrack) (k : CurrentCue),
    AtStep s w t rest r x a →
    (∀ m, a.engine = .attack m k → 2 ≤ m →
      exec .eventStep s = .next (s.stepped w t rest x { a with engine := .attack (m - 1) k })) ∧
    (a.engine = .attack 1 k → exec .eventStep s = .next (s.stepped w t rest x { a with engine := .play 0 k })) ∧
    (∀ n c, a.engine = .play n k → s.clip? w.copy.prog k.clip = some c → n + 1 < c.declared →
      exec .eventStep s = .next (s.stepped w t rest x { a with engine := .play (n + 1) k })) ∧
    (∀ n c, a.engine = .play n k → s.clip? w.copy.prog k.clip = some c → n + 1 = c.declared → 1 ≤ a.release →
      exec .eventStep s = .next (s.stepped w t rest x
        { a with engine := .release a.release k, rampStart := a.gain, rampTarget := 32768 })) ∧
    (∀ m, a.engine = .release m k → 2 ≤ m → a.HeadWaits w.tick →
      exec .eventStep s = .next (s.stepped w t rest x { a with engine := .release (m - 1) k })) ∧
    (a.engine = .idle → a.HeadWaits w.tick → exec .eventStep s = .next (s.stepped w t rest x a))

/-- R94, R110 to R112: when the release ends with no head or a head that waits, or play ends with release 0, the engine is IDLE at 32,768, the
cue is DONE and counted, and its clip is freed unless an AD cue of the programme still references it. -/
def Obligations.DescriptionEndsDoneAndFreesItsClip : Prop :=
  ∀ (s : State) (w : AudioWork) (t : TrackSlot) (rest : List TrackSlot) (r : Programme) (x : Track) (a : AdTrack) (k : CurrentCue),
    AtStep s w t rest r x a →
    ((a.engine = .release 1 k ∧ a.HeadWaits w.tick) ∨
      (a.release = 0 ∧ ∃ n c, a.engine = .play n k ∧ s.clip? w.copy.prog k.clip = some c ∧ n + 1 = c.declared)) →
    exec .eventStep s = .next
      (((s.stepped w t rest x a.atRest).setProg w.copy.prog (some r.oneDone)).clipFreed w.copy.prog k.clip)

/-- R106 to R109, R111: an IDLE or RELEASE engine whose head has come to its earliest tick, with its clip READY, triggers it when the run it
uses meets its hold or its latest tick is reached; the head leaves the list and becomes the current cue, its attack from the current gain. A
cue that was releasing is DONE after that, and its clip is freed unless it is still referenced, the new current cue included. -/
def Obligations.HeadTriggersOnQuietOrAtItsDeadline : Prop :=
  ∀ (s : State) (w : AudioWork) (t : TrackSlot) (rest : List TrackSlot) (r : Programme) (x : Track) (a : AdTrack) (h : AdCue)
    (behind : List AdCue),
    AtStep s w t rest r x a → a.cues = h :: behind → s.clipReady w.copy.prog h.clip = true →
    (h.state = .armed ∨ h.earliest ≤ w.tick) → (h.QuietEnough r ∨ h.latest ≤ w.tick) →
    let fired := s.stepped w t rest x (a.triggered h behind)
    (a.engine = .idle → exec .eventStep s = .next fired) ∧
    (∀ m k, a.engine = .release m k →
      exec .eventStep s = .next ((fired.setProg w.copy.prog (some r.oneDone)).clipFreed w.copy.prog k.clip))

/-- R99, R104 to R106, R108, R111, R112: an IDLE or RELEASE engine arms a head whose earliest tick is reached and lets it wait; a head at its
deadline with its clip not READY is MISSED (it is gone, counted and posted ABSENT, EVENT-MISSED is raised with the track, and its clip is freed
unless referenced), and RELEASE then goes on. Before that, in every engine state, each waiting cue behind the head whose latest tick is reached
is MISSED with LATE, in list order, and the engine then acts on what is left, also when a posted failure has just halted the programme.
EVENT-MISSED is raised in the step that halts (log 25). A HALTED programme's step is not made. -/
def Obligations.HeadWaitsOrIsMissedAndHaltStopsSteps : Prop :=
  (∀ (s : State) (w : AudioWork) (t : TrackSlot) (rest : List TrackSlot) (r : Programme) (x : Track) (a : AdTrack) (h : AdCue)
    (behind : List AdCue),
    AtStep s w t rest r x a → a.cues = h :: behind →
    let p := w.copy.prog
    (h.state = .pending → w.tick < h.earliest → a.engine = .idle → exec .eventStep s = .next (s.stepped w t rest x a)) ∧
    (h.state = .armed ∨ h.earliest ≤ w.tick → w.tick < h.latest → (s.clipReady p h.clip = false ∨ ¬ h.QuietEnough r) →
      let armed := { a with cues := { h with state := .armed } :: behind }
      (a.engine = .idle → exec .eventStep s = .next (s.stepped w t rest x armed)) ∧
      (∀ m k, a.engine = .release m k → 2 ≤ m →
        exec .eventStep s = .next (s.stepped w t rest x { armed with engine := .release (m - 1) k })) ∧
      (∀ k, a.engine = .release 1 k → exec .eventStep s
        = .next (((s.stepped w t rest x armed.atRest).setProg p (some r.oneDone)).clipFreed p k.clip))) ∧
    (h.state = .armed ∨ h.earliest ≤ w.tick → h.latest ≤ w.tick → s.clipReady p h.clip = false → (∀ y ∈ behind, y.id ≠ h.id) →
      let gone := { a with cues := behind }
      let r' := r.oneMissed t h.id .absent w.copy.ordinal
      (a.engine = .idle →
        exec .eventStep s = .next (((s.stepped w t rest x gone).setProg p (some r')).clipFreed p h.clip)) ∧
      (∀ m k, a.engine = .release m k → 2 ≤ m → exec .eventStep s = .next
        (((s.stepped w t rest x { gone with engine := .release (m - 1) k }).setProg p (some r')).clipFreed p h.clip)) ∧
      (∀ k, a.engine = .release 1 k → exec .eventStep s = .next
        (((s.stepped w t rest x gone.atRest).setProg p (some r'.oneDone)).clipFreed p h.clip |>.clipFreed p k.clip)))) ∧
  (∀ (s : State) (w : AudioWork) (t : TrackSlot) (rest : List TrackSlot) (r : Programme) (x : Track) (a : AdTrack) (h : AdCue)
    (behind : List AdCue),
    ReachesStep s w t rest r x a → a.cues = h :: behind → (a.cues.map (·.id)).Nodup →
    let p := w.copy.prog
    let late := behind.filter fun c => decide (c.latest ≤ w.tick)
    let left := { a with cues := h :: behind.filter fun c => decide (w.tick < c.latest) }
    let r₁ := late.foldl (fun r c => r.oneMissed t c.id .late w.copy.ordinal) r
    let s₁ := (s.setTrack t (some { x with body := .ad left })).setProg p (some r₁)
    let s₂ := { s₁ with
      clips := s.clips.filter fun c => !(decide (c.prog = p) && decide (c.id ∈ late.map (·.clip)) && !s₁.references p c.id) }
    (r₁.state ≠ .halted → exec .eventStep s = exec .eventStep s₂) ∧
    (r₁.state = .halted → ∃ u r₂, exec .eventStep (s₂.setProg p (some { r₁ with state := r.state })) = .next u ∧
      u.prog p = some r₂ ∧
      (((∃ m k, a.engine = .attack m k) ∨ (∃ n k, a.engine = .play n k) ∨ s₂.clipReady p h.clip = true ∨ w.tick < h.latest ∨
          (h.state = .pending ∧ w.tick < h.earliest)) →
        exec .eventStep s = .next (u.setProg p (some { r₂ with state := .halted }))) ∧
      (h.state = .armed ∨ h.earliest ≤ w.tick → h.latest ≤ w.tick → s₂.clipReady p h.clip = false →
        (a.engine = .idle ∨ (∃ m k, a.engine = .release m k ∧ 2 ≤ m) →
          exec .eventStep s = .next (u.setProg p (some (r₁.oneMissed t h.id .absent w.copy.ordinal)))) ∧
        (∀ k, a.engine = .release 1 k →
          exec .eventStep s = .next (u.setProg p (some (r₁.oneMissed t h.id .absent w.copy.ordinal).oneDone)))))) ∧
  (∀ (s : State) (w : AudioWork) (t : TrackSlot) (rest : List TrackSlot) (r : Programme),
    s.audio = some w → w.toRender = [] → w.rendered = none → w.toStep = t :: rest → s.prog w.copy.prog = some r →
    r.state = .halted → exec .eventStep s = .next { s with audio := leftToStep w rest })

/-! ### Requests -/

/-- R11, R150, R151: a request that names a FREE programme is answered ABSENT, and one that names a programme with a deferred request BUSY; the
reply alone changes the part. OPEN-PROGRAMME is answered BUSY by every slot in use; a CONCEAL request BUSY in HALTED. A READ-COUNTERS whose
first byte is 1 is judged in this way before its length, which is the model's choice (log 12). A request that its programme takes, or that names
none, is answered RANGE when its parameters have not the length its name calls for, and a READ-COUNTERS RANGE for another scope (R155, R163); that
the length is judged first among the request's own checks, and for a UNIT-RESET too, is the model's choice (log 16, log 17). -/
def Obligations.RequestsAreJudgedByTheirProgramme : Prop :=
  (∀ (s : State) (q : Request) (rest : List Request) (c : Instr) (name : Byte) (length : Nat),
    (c, name, length) ∈ [(Instr.identify, (0x01 : Byte), 0), (.setEgress, 0x0F, 9), (.unitReset, 0x10, 0)] →
    CanTake s q rest name → q.params.length ≠ length → exec c s = .next (s.replied q rest .range [])) ∧
  (∀ (s : State) (q : Request) (rest : List Request), CanTake s q rest 0x02 → s.prog q.prog = none → q.params.length ≠ 18 →
    exec .openProgramme s = .next (s.replied q rest .range [])) ∧
  (∀ (s : State) (q : Request) (rest : List Request) (c : Instr) (name : Byte) (length : Nat) (r : Programme),
    (c, name, length) ∈ [(Instr.setProgramme, (0x03 : Byte), 3), (.closeProgramme, 0x04, 0), (.resetProgramme, 0x05, 0),
      (.openTrack, 0x06, 19), (.closeTrack, 0x07, 1), (.loadStyle, 0x08, 2 + 6 * (byteAt q.params 1).toNat),
      (.concealSpan, 0x09, 17), (.concealUntilResume, 0x0A, 9), (.fence, 0x0B, 0), (.readProgramme, 0x0C, 0),
      (.readTrack, 0x0D, 1)] →
    CanTake s q rest name → s.prog q.prog = some r → r.takes → (name = 0x09 ∨ name = 0x0A → r.state = .active) →
    q.params.length ≠ length → exec c s = .next (s.replied q rest .range [])) ∧
  (∀ (s : State) (q : Request) (rest : List Request), CanTake s q rest 0x0E →
    (q.params.head? ≠ some 1 → q.params.head? ≠ some 0 ∨ q.params.length ≠ 2 →
      exec .readCounters s = .next (s.replied q rest .range [])) ∧
    (∀ r, s.prog q.prog = some r → r.takes → q.params.head? = some 1 → q.params.length ≠ 2 →
      exec .readCounters s = .next (s.replied q rest .range []))) ∧
  ∀ (s : State) (q : Request) (rest : List Request) (c : Instr) (name : Byte),
    (c, name) ∈ [(Instr.setProgramme, (0x03 : Byte)), (.closeProgramme, 0x04), (.resetProgramme, 0x05), (.openTrack, 0x06),
      (.closeTrack, 0x07), (.loadStyle, 0x08), (.concealSpan, 0x09), (.concealUntilResume, 0x0A), (.fence, 0x0B),
      (.readProgramme, 0x0C), (.readTrack, 0x0D), (.readCounters, 0x0E), (.openProgramme, 0x02)] →
    CanTake s q rest name → (name = 0x0E → q.params.head? = some 1) →
    (name ≠ 0x02 → s.prog q.prog = none → exec c s = .next (s.replied q rest .absent [])) ∧
    (∀ r, s.prog q.prog = some r → r.deferred ≠ none → exec c s = .next (s.replied q rest .busy [])) ∧
    (∀ r, s.prog q.prog = some r → name = 0x02 → exec c s = .next (s.replied q rest .busy [])) ∧
    (∀ r, s.prog q.prog = some r → name = 0x09 ∨ name = 0x0A → r.state = .halted →
      exec c s = .next (s.replied q rest .busy []))

/-- R151 to R155, R162 to R164: a REPLY bears this unit's address, the programme slot and the stream of its request, and its body the tag, the
name, the result code, the field length and the fields. The reads answer DONE with the values as they stand at the taking, each field at its
width with its most significant byte first, and change nothing but the reply's place; READ-TRACK is answered ABSENT for a slot that names no
track of the programme; READ-COUNTERS with its clear flag clears the counters of its scope in the same
step. The flag is read from bit 0 (log 14), a READ-COUNTERS counts its own reserved place and no place of the ingress buffer reserved for a
parcel in BODY (log 13), the n byte of a SINGLE mode is written 0 (log 18), and the order of four capacities in IDENTIFY is the part's
(log 15). -/
def Obligations.ReadsAnswerWithTheValuesAsTheyStand : Prop :=
  (∀ n v, (be n v).length = n ∧ beNat (be n v) = v % 256 ^ n) ∧
  (∀ (unit : BitVec 4) (p : ProgSlot) (stream : Byte) (tag : BitVec 16) (name : Byte) (code : ResultCode) (fields : List Byte),
    (replyParcel unit p stream tag name code fields).bytes = laneBytes 0x08 unit p stream
      (be 2 tag.toNat ++ [name] ++ be 1 code.number ++ be 2 fields.length ++ fields)) ∧
  (∀ (n : Nat) (bytes : List Byte), optField n (some bytes) = 1 :: bytes ∧ optField n none = List.replicate (n + 1) 0) ∧
  (∀ f : Failure, f.bytes = be 1 f.code.number ++ be 1 f.origin.number ++ optField 1 (f.track.map (be 1))
    ++ optField 4 (f.item.map (be 4)) ++ be 4 f.ordinal.toNat) ∧
  [ResultCode.done, .busy, .range, .full, .late, .integrity, .absent, .halted].map (·.number) = [0, 1, 2, 3, 4, 5, 6, 7] ∧
  [ProgState.active, .halted, .draining, .closing].map (·.number) = [1, 2, 3, 4] ∧
  [TrackState.active, .concealing, .closing].map (·.number) = [1, 2, 3] ∧
  [FailureOrigin.cueload, .narration, .segmark, .event].map (·.number) = [0, 1, 2, 3] ∧
  (∃ four, (four = [32, 16, 32, 16] ∨ four = [16, 32, 16, 32]) ∧
    ∀ (s : State) (q : Request) (rest : List Request), CanTake s q rest 0x01 → q.params = [] →
      exec .identify s = .next (s.replied q rest .done (be 2 2240 ++ be 1 1 ++ be 1 s.rx.address.toNat
        ++ ([16, 64, 8, 4, 4096, 512, 8192, 512, 16384, 3000, 32, 24, 32, 32, 8, 8, 4] ++ four).flatMap (be 2)))) ∧
  ∀ (s : State) (q : Request) (rest : List Request),
    let present : Nat → Option (List Byte) → List Byte := fun n bytes =>
      match bytes with
      | some bytes => 1 :: bytes
      | none => List.replicate (n + 1) 0
    (CanTake s q rest 0x0C → q.params = [] → ∀ r, s.prog q.prog = some r → r.takes →
      let failure : Failure → List Byte := fun f => be 1 f.code.number ++ be 1 f.origin.number
        ++ present 1 (f.track.map (be 1)) ++ present 4 (f.item.map (be 4)) ++ be 4 f.ordinal.toNat
      let kinds := r.notice.halted.toNat + 2 * r.notice.firstError.toNat + 4 * r.notice.concealDone.toNat
        + 8 * r.notice.segmentGap.toNat + 16 * r.notice.eventMissed.toNat
      exec .readProgramme s = .next (s.replied q rest .done
        (be 1 r.state.number ++ [r.stream] ++ be 4 r.timebase.n ++ be 2 r.timebase.d ++ be 8 r.timebase.origin
          ++ be 2 r.threshold ++ [r.escalation] ++ be 8 r.cutLine ++ present 4 (r.lastSegment.map (be 4)) ++ be 8 r.audioLine
          ++ be 1 r.quietRun ++ be 1 r.strictRun ++ present 13 (r.firstError.map failure) ++ be 2 r.failureCount
          ++ present 1 (r.haltCode.map fun c => be 1 c.number)
          ++ be 1 kinds ++ be 8 r.notice.concealTracks.toNat ++ be 8 r.notice.missedTracks.toNat
          ++ be 1 r.tracks.length ++ r.tracks.flatMap fun t =>
            match s.track t with
            | some x => be 1 t.val ++ be 1 x.body.kindNumber ++ be 1 x.state.number
            | none => be 1 t.val ++ [0, 0]))) ∧
    (CanTake s q rest 0x0D → ∀ r slot, s.prog q.prog = some r → r.takes → q.params = [slot] → s.NamesNoTrack q.prog slot →
      exec .readTrack s = .next (s.replied q rest .absent [])) ∧
    (CanTake s q rest 0x0D → ∀ r, s.prog q.prog = some r → r.takes →
      ∀ (t : TrackSlot) (x : Track), q.params = [BitVec.ofNat 8 t.val] → s.track t = some x → x.prog = q.prog →
      exec .readTrack s = .next (s.replied q rest .done
        (be 1 t.val ++ be 1 (match x.body with | .sub _ => 1 | .ad _ => 2) ++ be 1 x.state.number ++ [x.stream]
          ++ be 1 x.tag.length ++ x.tag ++ List.replicate (8 - x.tag.length) 0
          ++ match x.body with
            | .sub b => present 1 (b.reference.map fun t => be 1 t.val)
                ++ (match b.styles with
                  | .default => [0, 4]
                  | .loaded es => [1] ++ be 1 es.length)
                ++ be 2 b.cues.length
                ++ (match b.window with
                  | none => List.replicate 9 0 ++ List.replicate 9 0 ++ [0, 0]
                  | some w => [1] ++ be 8 w.f ++ (match w.x with
                      | some e => [1] ++ be 8 e
                      | none => [2] ++ List.replicate 8 0) ++ [1, if w.mode = .span then 0 else 1])
                ++ (match b.outcome with
                  | none => [0, 0]
                  | some o => [1, if o = .repaired then 0 else 1])
            | .ad a => be 2 a.gn ++ be 2 a.gd ++ be 1 a.attack ++ be 1 a.release
                ++ (match a.engine with
                  | .idle => [0] ++ be 2 0
                  | .attack m _ => [1] ++ be 2 m
                  | .play n _ => [2] ++ be 2 n
                  | .release m _ => [3] ++ be 2 m)
                ++ be 2 a.gain ++ present 8 (a.engine.current?.map fun k => be 4 k.id ++ be 4 k.clip) ++ be 2 a.cues.length
                ++ present 5 (a.cues.head?.map fun h => be 4 h.id ++ [if h.state = .pending then 0 else 1])))) ∧
    (CanTake s q rest 0x0E → ∀ r flag, s.prog q.prog = some r → r.takes → q.params = [1, flag] →
      let fields := [r.counters.cuesAccepted, r.counters.cuesLate, r.counters.cuesTrimmed, r.counters.cuesSkipped,
        r.counters.segmentsCut, r.counters.entriesOverflowed, r.counters.eventsDone, r.counters.eventsMissed,
        r.counters.quietParcels, r.counters.marginalParcels, r.counters.clippedSamples].flatMap (be 4)
      exec .readCounters s = .next (if flag.getLsbD 0 = true then
          (s.replied q rest .done fields).setProg q.prog
            (some { r with counters := ⟨0, 0, 0, 0, 0, 0, 0, 0, 0, 0, 0⟩ })
        else s.replied q rest .done fields)) ∧
    (CanTake s q rest 0x0E → ∀ flag, q.params = [0, flag] →
      let settings : EgressSettings → List Byte := fun x => [if x.policy = .fixed then 0 else 1]
        ++ [x.modes.ctl, x.modes.mix, x.modes.seg, x.modes.thru].flatMap fun mode =>
          match mode with
          | .single => [0, 0]
          | .batch n => [1] ++ be 1 n
      let placed := s.egress.ctl.countP fun c =>
        match c with
        | .filled _ => true
        | .unitResetReply _ => true
        | .reserved _ => false
        | .reservedForUnit => false
      let fields := [s.counters.taken, s.counters.passed, s.counters.consumed, s.counters.dropped, s.counters.headerFailures,
          s.counters.bodyFailures, s.counters.resyncs, s.counters.overruns, s.counters.drainDiscards].flatMap (be 4)
        ++ [4096 - s.cuesInUse, 8192 - s.linesInUse, 512 - s.clips.length, 16384 - s.pagesInUse].flatMap (be 2)
        ++ settings s.egress.settings ++ present 9 (s.egress.pendingSettings.map settings)
        ++ [s.egress.passOver.ctl, s.egress.passOver.mix, s.egress.passOver.seg, s.egress.passOver.thru,
          (match s.egress.last with | .ctl => 0 | .mix => 1 | .seg => 2 | .thru => 3), s.egress.credit, placed,
          s.egress.ctl.length + 1 - placed, s.egress.mix.length, s.egress.seg.length, s.egress.thru.length,
          s.rx.buffer.length, s.loaderQ.length, s.markQ.length, s.audioQ.length, rest.length].flatMap (be 1)
      exec .readCounters s = .next (if flag.getLsbD 0 = true then
          { s.replied q rest .done fields with counters := ⟨0, 0, 0, 0, 0, 0, 0, 0, 0⟩ }
        else s.replied q rest .done fields))

/-- R10, R12, R14: an accepted OPEN-PROGRAMME writes the record of a programme fresh from opening. -/
def Obligations.OpenProgrammeWritesAFreshRecord : Prop :=
  ∀ (s : State) (q : Request) (rest : List Request), CanTake s q rest 0x02 → s.prog q.prog = none → q.params.length = 18 →
    let stream := byteAt q.params 0
    let n := fieldAt q.params 1 4
    let d := fieldAt q.params 5 2
    let origin := fieldAt q.params 7 8
    let threshold := fieldAt q.params 15 2
    let escalation := byteAt q.params 17
    1 ≤ n → n ≤ 240000 → 1 ≤ d → origin ≤ maxTick → threshold ≤ 32767 →
    escalation.getLsbD 0 = false → escalation.getLsbD 1 = false → escalation.getLsbD 7 = false →
    (∀ p r, s.prog p = some r → r.stream ≠ stream) → (∀ t x, s.track t = some x → x.stream ≠ stream) →
      exec .openProgramme s = .next ((s.replied q rest .done []).setProg q.prog (some {
        state := .active
        stream := stream
        timebase := ⟨n, d, origin⟩
        threshold := threshold
        escalation := escalation
        cutLine := origin
        lastSegment := none
        audioLine := origin
        quietRun := 0
        strictRun := 0
        firstError := none
        failureCount := 0
        haltCode := none
        notice := ⟨false, false, false, false, false, 0, 0⟩
        tracks := []
        counters := ⟨0, 0, 0, 0, 0, 0, 0, 0, 0, 0, 0⟩
        deferred := none }))

/-- R12, R13, R14: OPEN-PROGRAMME is refused with RANGE for a stream in use and for a rate, an origin, a threshold or an escalation set out of
range, SET-PROGRAMME for a threshold above 32,767 or a code outside the allowed five; a refusal leaves the slot FREE or the fields as they are.
An accepted SET-PROGRAMME writes both fields and nothing else. -/
def Obligations.SetProgrammeWritesThresholdAndEscalation : Prop :=
  ∀ (s : State) (q : Request) (rest : List Request),
    (CanTake s q rest 0x03 → ∀ r, s.prog q.prog = some r → r.takes → q.params.length = 3 →
      let threshold := fieldAt q.params 0 2
      let escalation := byteAt q.params 2
      ((threshold ≤ 32767 ∧ escalation.getLsbD 0 = false ∧ escalation.getLsbD 1 = false ∧ escalation.getLsbD 7 = false) →
        exec .setProgramme s = .next ((s.replied q rest .done []).setProg q.prog
          (some { r with threshold := threshold, escalation := escalation }))) ∧
      ((32767 < threshold ∨ escalation.getLsbD 0 = true ∨ escalation.getLsbD 1 = true ∨ escalation.getLsbD 7 = true) →
        exec .setProgramme s = .next (s.replied q rest .range []))) ∧
    (CanTake s q rest 0x02 → s.prog q.prog = none →
      ((∃ p r, s.prog p = some r ∧ r.stream = byteAt q.params 0) ∨ ∃ t x, s.track t = some x ∧ x.stream = byteAt q.params 0) →
      exec .openProgramme s = .next (s.replied q rest .range [])) ∧
    (CanTake s q rest 0x02 → s.prog q.prog = none → q.params.length = 18 →
      let n := fieldAt q.params 1 4
      let escalation := byteAt q.params 17
      (n = 0 ∨ 240000 < n ∨ fieldAt q.params 5 2 = 0 ∨ maxTick < fieldAt q.params 7 8 ∨ 32767 < fieldAt q.params 15 2 ∨
        escalation.getLsbD 0 = true ∨ escalation.getLsbD 1 = true ∨ escalation.getLsbD 7 = true) →
      exec .openProgramme s = .next (s.replied q rest .range []))

/-- R18 to R20, R151: CLOSE-PROGRAMME and RESET-PROGRAMME are deferred: the programme enters CLOSING or DRAINING with the request as its deferred
request, and its copy that the audio path handles becomes work in flight (log 23). -/
def Obligations.DrainBeginsAtCloseAndReset : Prop :=
  ∀ (s : State) (q : Request) (rest : List Request) (r : Programme), s.prog q.prog = some r → r.takes → q.params = [] →
    let audio := s.audio.map fun w => if w.copy.prog = q.prog then { w with inFlight := true } else w
    (CanTake s q rest 0x04 →
      exec .closeProgramme s = .next { (s.promised q rest).setProg q.prog
          (some { r with state := .closing, deferred := some ⟨.closeProgramme, q.tag, q.stream⟩ }) with audio := audio }) ∧
    (CanTake s q rest 0x05 →
      exec .resetProgramme s = .next { (s.promised q rest).setProg q.prog
          (some { r with state := .draining, deferred := some ⟨.resetProgramme, q.tag, q.stream⟩ }) with audio := audio })

/-- R14, R25: an accepted OPEN-TRACK takes the lowest FREE slot, appends it to the track list and answers DONE with the slot. It is refused with
RANGE for a tag, a kind, a reference, a gain, a ramp length or a stream that the tests do not pass, and then with FULL when the programme holds 8
SUB or 4 AD tracks of its kind or no slot is FREE. The reference-present byte of an AD track is not read, which is the model's choice
(log 19). -/
def Obligations.OpenTrackTakesTheLowestFreeSlot : Prop :=
  ∀ (s : State) (q : Request) (rest : List Request) (r : Programme),
    CanTake s q rest 0x06 → s.prog q.prog = some r → r.takes → q.params.length = 19 →
    let n := (byteAt q.params 2).toNat
    let tag := (q.params.drop 3).take n
    let subs := (r.tracks.filter fun u => (s.sub? u).isSome).length
    let ads := (r.tracks.filter fun u => (s.ad? u).isSome).length
    let asSub : Option TrackSlot → Prop := fun reference => byteAt q.params 0 = 1 ∧
      ((byteAt q.params 11 = 0 ∧ reference = none) ∨
        (byteAt q.params 11 = 1 ∧ ∃ u y, reference = some u ∧ (byteAt q.params 12).toNat = u.val ∧ s.track u = some y ∧
          y.prog = q.prog ∧ y.state ≠ .closing ∧ s.sub? u ≠ none))
    let asAd : Prop := byteAt q.params 0 = 2 ∧ fieldAt q.params 13 2 ≤ 32768 ∧ fieldAt q.params 15 2 ≤ 32768 ∧
      (byteAt q.params 17).toNat ≤ 50 ∧ (byteAt q.params 18).toNat ≤ 50
    let passes : Prop := 1 ≤ n ∧ n ≤ 8 ∧ (∀ c ∈ tag, 0x20 ≤ c.toNat ∧ c.toNat ≤ 0x7E) ∧
      (∀ p r, s.prog p = some r → r.stream ≠ byteAt q.params 1) ∧
      (∀ u y, s.track u = some y → y.stream ≠ byteAt q.params 1) ∧ ((∃ reference, asSub reference) ∨ asAd)
    (¬ passes → exec .openTrack s = .next (s.replied q rest .range [])) ∧
    (passes → (byteAt q.params 0 = 1 ∧ 8 ≤ subs) ∨ (byteAt q.params 0 = 2 ∧ 4 ≤ ads) ∨ (∀ u, s.track u ≠ none) →
      exec .openTrack s = .next (s.replied q rest .full [])) ∧
    (passes → ∀ (t : TrackSlot) (x : Track), s.track t = none → (∀ u, u < t → s.track u ≠ none) →
      ((subs < 8 ∧ ∃ reference, asSub reference ∧
          x = ⟨q.prog, .active, byteAt q.params 1, tag, .sub ⟨.default, reference, none, none, []⟩⟩) ∨
        (ads < 4 ∧ asAd ∧
          x = ⟨q.prog, .active, byteAt q.params 1, tag, .ad ⟨fieldAt q.params 13 2, fieldAt q.params 15 2,
            (byteAt q.params 17).toNat, (byteAt q.params 18).toNat, .idle, 32768, 32768, 32768, []⟩⟩)) →
      exec .openTrack s = .next (((s.replied q rest .done (be 1 t.val)).setTrack t (some x)).setProg q.prog
        (some { r with tracks := r.tracks ++ [t] })))

/-- R26: an accepted CLOSE-TRACK makes the track CLOSING, abandons its window, and is the programme's deferred request; a slot above 63, FREE or of
another programme is ABSENT. -/
def Obligations.CloseTrackBeginsATrackDrain : Prop :=
  ∀ (s : State) (q : Request) (rest : List Request) (r : Programme) (slot : Byte),
    CanTake s q rest 0x07 → s.prog q.prog = some r → r.takes → q.params = [slot] →
    (∀ (t : TrackSlot) (x : Track), slot.toNat = t.val → s.track t = some x → x.prog = q.prog →
      exec .closeTrack s = .next (((s.promised q rest).setTrack t (some { x with
          state := .closing
          body := match x.body with
            | .sub b => .sub { b with window := none, outcome := none }
            | .ad a => .ad a })).setProg q.prog
        (some { r with deferred := some ⟨.closeTrack t, q.tag, q.stream⟩ }))) ∧
    (s.NamesNoTrack q.prog slot → exec .closeTrack s = .next (s.replied q rest .absent []))

/-- R47, R48, R163: LOAD-STYLE replaces the whole table of a SUB track with the entries its bytes carry; with no entry the default table. It is
refused with ABSENT for a slot that names no track of the programme or one in CLOSING, and with RANGE for an AD track, for more than 32 entries
and for a value outside its field's values. -/
def Obligations.LoadStyleReplacesTheTable : Prop :=
  ∀ (s : State) (q : Request) (rest : List Request) (r : Programme) (slot count : Byte) (bytes : List Byte),
    CanTake s q rest 0x08 → s.prog q.prog = some r → r.takes → q.params = slot :: count :: bytes →
    bytes.length = 6 * count.toNat →
    (s.NamesNoTrack q.prog slot → exec .loadStyle s = .next (s.replied q rest .absent [])) ∧
    ∀ (t : TrackSlot) (x : Track), slot.toNat = t.val → s.track t = some x → x.prog = q.prog →
      (x.state = .closing → exec .loadStyle s = .next (s.replied q rest .absent [])) ∧
      (x.state ≠ .closing → (∃ a, x.body = .ad a) ∨ 32 < count.toNat ∨ (∃ i, i < count.toNat ∧ StyleOutOfRange bytes i) →
        exec .loadStyle s = .next (s.replied q rest .range [])) ∧
      (∀ (b : SubTrack) (entries : List Style), x.state ≠ .closing → x.body = .sub b → count.toNat = entries.length →
        entries.length ≤ 32 → (∀ e ∈ entries, e.colour ≤ 15) → bytes = entries.flatMap styleOnLane →
        exec .loadStyle s = .next ((s.replied q rest .done []).setTrack t (some { x with
          body := .sub { b with styles := if count = 0 then .default else .loaded entries } })))

/-- R74 to R77: a CONCEAL-SPAN whose window is empty completes at once and changes no cue; another one clears the window of the track's own
cues and enters CONCEALING. F is raised to the cut line. A CONCEAL request that its programme takes is refused with ABSENT for a slot that names
no track of it, with RANGE for an AD track, with BUSY for a track already CONCEALING and with RANGE for a tick above 2^48 - 1. -/
def Obligations.ConcealSpanClearsItsWindow : Prop :=
  (∀ (s : State) (q : Request) (rest : List Request) (r : Programme) (c : Instr) (name : Byte),
    (c = .concealSpan ∧ name = 0x09 ∧ q.params.length = 17) ∨ (c = .concealUntilResume ∧ name = 0x0A ∧ q.params.length = 9) →
    CanTake s q rest name → s.prog q.prog = some r → r.state = .active → r.deferred = none →
    let refused : ResultCode → Prop := fun code => exec c s = .next (s.replied q rest code [])
    (s.NamesNoTrack q.prog (byteAt q.params 0) → refused .absent) ∧
    ∀ (t : TrackSlot) (x : Track), (byteAt q.params 0).toNat = t.val → s.track t = some x → x.prog = q.prog →
      (∀ a, x.body = .ad a → refused .range) ∧
      (∀ b, x.body = .sub b → x.state = .concealing → refused .busy) ∧
      (∀ b, x.body = .sub b → x.state ≠ .concealing →
        maxTick < fieldAt q.params 1 8 ∨ (name = 0x09 ∧ maxTick < fieldAt q.params 9 8) → refused .range)) ∧
  ∀ (s : State) (q : Request) (rest : List Request) (r : Programme) (t : TrackSlot) (x : Track) (b : SubTrack),
    CanTake s q rest 0x09 → q.params.length = 17 → ConcealAccepted s q r t x b → fieldAt q.params 9 8 ≤ maxTick →
    let f := max (fieldAt q.params 1 8) r.cutLine
    let e := fieldAt q.params 9 8
    let w : Window := ⟨f, some e, .span⟩
    (e ≤ f → exec .concealSpan s = .next
      (((s.replied q rest .done (be 8 f ++ (be 1 1 ++ be 8 e) ++ be 1 1)).setTrack t (some { x with
          body := .sub { b with window := some w, outcome := some .nothingToRepair } })).setProg q.prog
        (some { r with notice := { r.notice with
          concealDone := true
          concealTracks := r.notice.concealTracks ||| 1#64 <<< t.val } }))) ∧
    (f < e → ∃ cues, exec .concealSpan s = .next
      (((s.replied q rest .done (be 8 f ++ (be 1 1 ++ be 8 e) ++ be 1 2)).setTrack t (some { x with
          state := .concealing
          body := .sub { b with window := some w, outcome := none, cues := cues } })).setProg q.prog
        (some { r with counters := { r.counters with
          cuesTrimmed := min 4294967295 (r.counters.cuesTrimmed
            + (b.cues.filter fun c => c.start < f && f < c.stop && f != r.cutLine).length) } })) ∧
      cues = (b.cues.filter fun c => !(c.start < f && f < c.stop && f == r.cutLine) && !(f ≤ c.start && c.start < e)).map
        (fun c => if c.start < f ∧ f < c.stop then { c with stop := f, trimmed := true } else c))

/-- R74 to R77: a CONCEAL-UNTIL-RESUME resolves X to the start of the earliest own cue at or after F; X equal to F completes at once, no such
cue leaves X unresolved. Own cues that cross F are trimmed or, with F at the cut line, retired. -/
def Obligations.ConcealUntilResumeLooksForTheNextCue : Prop :=
  ∀ (s : State) (q : Request) (rest : List Request) (r : Programme) (t : TrackSlot) (x : Track) (b : SubTrack),
    CanTake s q rest 0x0A → q.params.length = 9 → ConcealAccepted s q r t x b →
    let f := max (fieldAt q.params 1 8) r.cutLine
    let cues := (b.cues.filter fun c => !(c.start < f && f < c.stop && f == r.cutLine)).map
      (fun c => if c.start < f ∧ f < c.stop then { c with stop := f, trimmed := true } else c)
    let e := (cues.find? fun c => f ≤ c.start).map (·.start)
    let counted := { r with counters := { r.counters with
      cuesTrimmed := min 4294967295 (r.counters.cuesTrimmed
        + (b.cues.filter fun c => c.start < f && f < c.stop && f != r.cutLine).length) } }
    (e = some f → exec .concealUntilResume s = .next
      (((s.replied q rest .done (be 8 f ++ (be 1 1 ++ be 8 f) ++ be 1 1)).setTrack t (some { x with
          body := .sub { b with
            window := some ⟨f, some f, .untilResume⟩
            outcome := some .nothingToRepair
            cues := cues } })).setProg q.prog
        (some { counted with notice := { r.notice with
          concealDone := true
          concealTracks := r.notice.concealTracks ||| 1#64 <<< t.val } }))) ∧
    (e ≠ some f → exec .concealUntilResume s = .next
      (((s.replied q rest .done (be 8 f ++ (match e with
            | some e => be 1 1 ++ be 8 e
            | none => be 1 2 ++ be 8 0) ++ be 1 2)).setTrack t (some { x with
          state := .concealing
          body := .sub { b with window := some ⟨f, e, .untilResume⟩, outcome := none, cues := cues } })).setProg q.prog
        (some counted)))

/-- R29, R150, R156: FENCE is deferred and its marker goes to the tail of the loader queue; while that is full the FENCE waits as the current
request, and its marker is placed when there is room. -/
def Obligations.FenceIsDeferredBehindItsMarker : Prop :=
  (∀ (s : State) (q : Request) (rest : List Request) (r : Programme),
    CanTake s q rest 0x0B → s.prog q.prog = some r → r.takes → q.params = [] →
    let held := (s.promised q rest).setProg q.prog (some { r with deferred := some ⟨.fence, q.tag, q.stream⟩ })
    (s.loaderQ.length < 32 →
      exec .fence s = .next { held with loaderQ := s.loaderQ ++ [.fence q.prog q.tag], fenceWaiting := none }) ∧
    (32 ≤ s.loaderQ.length → exec .fence s = .next { held with fenceWaiting := some q.prog })) ∧
  (∀ (s : State) (p : ProgSlot) (r : Programme) (d : Deferred),
    s.fenceWaiting = some p → s.prog p = some r → r.deferred = some d →
    (s.loaderQ.length < 32 →
      exec .fenceMarkerPlaced s = .next { s with loaderQ := s.loaderQ ++ [.fence p d.tag], fenceWaiting := none }) ∧
    (32 ≤ s.loaderQ.length → exec .fenceMarkerPlaced s = .next s))

/-- R146, R150, R163: SET-EGRESS writes its settings as the pending ones, and is refused with RANGE for a policy or a mode that is none and for a
BATCH of 0 or of more than 8; a name that is not one of the sixteen is answered RANGE with the name
as carried. -/
def Obligations.SetEgressPendsAndUnknownNamesAreRange : Prop :=
  (∀ (s : State) (q : Request) (rest : List Request) (x : EgressSettings), CanTake s q rest 0x0F → q.params.length = 9 →
    byteAt q.params 0 = (if x.policy = .fixed then 0 else 1) →
    x.modes.ctl.carriedBy (byteAt q.params 1) (byteAt q.params 2) → x.modes.mix.carriedBy (byteAt q.params 3) (byteAt q.params 4) →
    x.modes.seg.carriedBy (byteAt q.params 5) (byteAt q.params 6) → x.modes.thru.carriedBy (byteAt q.params 7) (byteAt q.params 8) →
    exec .setEgress s = .next { s.replied q rest .done [] with
      egress := { (s.replied q rest .done []).egress with pendingSettings := some x } }) ∧
  (∀ (s : State) (q : Request) (rest : List Request), CanTake s q rest 0x0F → q.params.length = 9 →
    (1 < (byteAt q.params 0).toNat ∨ ∃ i ∈ [1, 3, 5, 7], 1 < (byteAt q.params i).toNat ∨
      (byteAt q.params i = 1 ∧ (byteAt q.params (i + 1) = 0 ∨ 8 < (byteAt q.params (i + 1)).toNat))) →
    exec .setEgress s = .next (s.replied q rest .range [])) ∧
  (∀ (s : State) (q : Request) (rest : List Request) (name : Byte), CanTake s q rest name → name.toNat = 0 ∨ 16 < name.toNat →
    exec .unknownRequest s = .next (s.replied q rest .range []))

/-- R138, R159: UNIT-RESET reserves its reply's place, is marked outstanding and closes the lane receiver; from then on the head request is
discarded and counted, with no reply, and the bytes that arrive on the lane are discarded unread and counted nowhere. That the framing state of
a CLOSED receiver is HUNT with no bytes is the model's choice (log 6). -/
def Obligations.UnitResetClosesTheIngressAndDiscardsRequests : Prop :=
  (∀ (s : State) (q : Request) (rest : List Request), CanTake s q rest 0x10 → q.params = [] →
    exec .unitReset s = .next { s with
      requestQ := rest
      unitReset := some ⟨q.tag, q.stream, q.prog, false⟩
      rx := { s.rx with closed := true, framing := .hunt false [] }
      egress := { s.egress with ctl := s.egress.ctl ++ [.reservedForUnit] } }) ∧
  (∀ (s : State) (u : UnitReset) (q : Request) (rest : List Request), s.unitReset = some u → s.requestQ = q :: rest →
    exec .requestDiscard s = .next { s with requestQ := rest }.oneDropped) ∧
  (∀ (s : State) (bytes : List Byte), s.rx.closed = true →
    exec (.headerAccepted bytes) s = .next s ∧ exec (.headerFailure bytes) s = .next s ∧ exec (.overrun bytes) s = .next s ∧
    exec (.takenWhole bytes) s = .next s)

/-! ### Completions -/

/-- R19, R20: when its drain has completed, a reset programme is ACTIVE as fresh from opening with its configuration and tracks, its tracks and
clips cleared; a closed programme, once no SEG or MIX entry bears its slot, is FREE with its tracks, its clips freed. The reply fills the
reserved place. A drain does not wait for a copy taken in DRAINING, which is the model's choice (log 23). -/
def Obligations.ResetAndCloseProgrammeComplete : Prop :=
  (∀ (s : State) (p : ProgSlot) (r : Programme) (d : Deferred) (ctl : List CtlPlace),
    s.prog p = some r → r.deferred = some d → d.kind = .resetProgramme → NothingInFlight s p →
    Fills s.egress.ctl ctl (.reserved p) (.filled (replyParcel s.rx.address p d.stream d.tag 0x05 .done [])) →
    ∃ t', exec (.resetProgrammeComplete p) s = .next t' ∧
      t'.prog p = some { r with
        state := .active
        cutLine := r.timebase.origin
        lastSegment := none
        audioLine := r.timebase.origin
        quietRun := 0
        strictRun := 0
        firstError := none
        failureCount := 0
        haltCode := none
        notice := ⟨false, false, false, false, false, 0, 0⟩
        counters := ⟨0, 0, 0, 0, 0, 0, 0, 0, 0, 0, 0⟩
        deferred := none } ∧
      (∀ t ∈ r.tracks, ∀ x b, s.track t = some x → x.body = .sub b → t'.track t = some { x with
        state := if x.state = .concealing then .active else x.state
        body := .sub { b with styles := .default, window := none, outcome := none, cues := [] } }) ∧
      (∀ t ∈ r.tracks, ∀ x a, s.track t = some x → x.body = .ad a → t'.track t = some { x with
        state := if x.state = .concealing then .active else x.state
        body := .ad { a with engine := .idle, gain := 32768, rampStart := 32768, rampTarget := 32768, cues := [] } }) ∧
      (∀ t, t ∉ r.tracks → t'.track t = s.track t) ∧ (∀ p', p' ≠ p → t'.prog p' = s.prog p') ∧
      t' = { s with
        progs := t'.progs
        tracks := t'.tracks
        clips := s.clips.filter fun c => c.prog != p
        egress := { s.egress with ctl := ctl } }) ∧
  (∀ (s : State) (p : ProgSlot) (r : Programme) (d : Deferred) (ctl : List CtlPlace),
    s.prog p = some r → r.deferred = some d → d.kind = .closeProgramme → NothingInFlight s p →
    (∀ x ∈ s.egress.seg, x.slot ≠ p) → (∀ x ∈ s.egress.mix, x.slot ≠ p) →
    Fills s.egress.ctl ctl (.reserved p) (.filled (replyParcel s.rx.address p d.stream d.tag 0x04 .done [])) →
    ∃ t', exec (.closeProgrammeComplete p) s = .next t' ∧ t'.prog p = none ∧ (∀ t ∈ r.tracks, t'.track t = none) ∧
      (∀ t, t ∉ r.tracks → t'.track t = s.track t) ∧ (∀ p', p' ≠ p → t'.prog p' = s.prog p') ∧
      t' = { s with
        progs := t'.progs
        tracks := t'.tracks
        clips := s.clips.filter fun c => c.prog != p
        egress := { s.egress with ctl := ctl } })

/-- R26, R95: when no buffer holds a SUBSEG of it and no handled copy serves it, a closed track is FREE and leaves the track list, references to it
are absent, and the clips its cues named are freed unless still referenced. -/
def Obligations.CloseTrackCompletesAfterItsDrain : Prop :=
  ∀ (s : State) (p : ProgSlot) (r : Programme) (d : Deferred) (t : TrackSlot) (ctl : List CtlPlace),
    s.prog p = some r → r.deferred = some d → d.kind = .closeTrack t →
    (∀ c ∈ s.cuts, ∀ u ∈ c.subsegs, u.track ≠ t) → (∀ w, s.audio = some w → t ∉ w.served) →
    Fills s.egress.ctl ctl (.reserved p) (.filled (replyParcel s.rx.address p d.stream d.tag 0x07 .done [])) →
    let named : List Nat := match s.ad? t with
      | some (a : AdTrack) => (a.cues.map fun c => c.clip) ++ (a.engine.current?.map fun c => c.clip).toList
      | none => []
    ∃ t', exec (.closeTrackComplete p) s = .next t' ∧ t'.track t = none ∧
      t'.prog p = some { r with tracks := r.tracks.erase t, deferred := none } ∧
      (∀ u ∈ r.tracks, u ≠ t → ∀ x b, s.track u = some x → x.body = .sub b → t'.track u = some { x with
        body := .sub { b with reference := if b.reference = some t then none else b.reference } }) ∧
      (∀ u, u ≠ t → (u ∉ r.tracks ∨ s.sub? u = none) → t'.track u = s.track u) ∧ (∀ p', p' ≠ p → t'.prog p' = s.prog p') ∧
      t' = { s with
        progs := t'.progs
        tracks := t'.tracks
        clips := s.clips.filter fun c => !(decide (c.prog = p) && decide (c.id ∈ named) && !t'.references p c.id)
        egress := { s.egress with ctl := ctl } }

/-- R157, R160, R162, R164: a NOTICE carries the lowest notice slot that is not empty and leaves it empty; the UNIT-RESET reply fills its
reserved place once the work of the unit has ended. -/
def Obligations.NoticesAndTheUnitResetReplyArePlaced : Prop :=
  (∀ (unit : BitVec 4) (p : ProgSlot) (stream : Byte) (body : List Byte),
    (makeParcel 0x09 (addressByte unit p) stream body).bytes = laneBytes 0x09 unit p stream body) ∧
  (∀ (s : State) (p : ProgSlot) (r : Programme), s.unitReset = none → s.egress.ctl.length + 5 ≤ 16 → s.prog p = some r →
    r.notice.kindsNumber ≠ 0 → (∀ p' r', p' < p → s.prog p' = some r' → r'.notice.kindsNumber = 0) →
    exec .noticeEmission s = .next { s.setProg p (some { r with notice := ⟨false, false, false, false, false, 0, 0⟩ }) with
      egress := { s.egress with
        ctl := s.egress.ctl ++ [.filled (makeParcel 0x09 (addressByte s.rx.address p) r.stream
          (be 1 r.notice.kindsNumber ++ be 8 r.notice.concealTracks.toNat ++ be 8 r.notice.missedTracks.toNat
            ++ be 1 r.state.number ++ optField 1 (r.haltCode.map fun c => be 1 c.number)))] } }) ∧
  (∀ (s : State) (u : UnitReset) (ctl : List CtlPlace), s.unitReset = some u → u.placed = false →
    s.rx.buffer = [] → s.loaderQ = [] → s.markQ = [] → s.audioQ = [] → s.requestQ = [] → s.loading = none → s.audio = none →
    s.fenceWaiting = none → s.cuts = [] → (∀ p r, s.prog p = some r → r.deferred = none) →
    s.egress.thru = [] → s.egress.seg = [] → s.egress.mix = [] →
    Fills s.egress.ctl ctl .reservedForUnit
      (.unitResetReply (replyParcel s.rx.address u.prog u.stream u.tag 0x10 .done (be 4 s.rx.ordinal.toNat))) →
    exec .unitResetReply s = .next { s with
      unitReset := some { u with placed := true }
      egress := { s.egress with ctl := ctl } })

/-! ### What every step keeps -/

/-- The part right after its first power-on, with nothing sent and the 32 credits of the first restart granted, and every invariant below of
it; the strap level 0 is the model's choice (log 4). -/
def Obligations.ResetStateIsFreshAndKeepsEveryInvariant : Prop :=
  State.reset = freshPart 0 [] [.restart 32] [] ∧
  WithinCapacity State.reset ∧ ArbiterSound State.reset ∧ ProgrammesSound State.reset ∧ StreamsDistinct State.reset ∧
  ListsOrdered State.reset ∧ TablesAgree State.reset ∧ CuesEndAfterCutLine State.reset

/-- No queue grows beyond its capacity, and the receiver never holds more credit than free places (R29, R52, R65, R97, R129, R130,
R139, R149). No pool gives more than it has: 4,096 cue records, 8,192 text blocks, 512 clip records, 16,384 narration pages; and the clip ids of
a programme stay distinct (R33, R34, R85, R86). -/
def Obligations.StepKeepsQueuesWithinCapacity : Prop :=
  ∀ s t : State, WithinCapacity s → step s = .next t → WithinCapacity t

/-- The arbiter's counters stay in range, and a grant in force always has a placed parcel to send and allowance for it (R140 to
R146). -/
def Obligations.StepKeepsTheArbiterSound : Prop := ∀ s t : State, ArbiterSound s → step s = .next t → ArbiterSound t

/-- Every programme in DRAINING or CLOSING holds the deferred request that began it; runs, counts and ticks stay in range; HALTED and the halt
code go together (R1, R10, R11, R15, R102). -/
def Obligations.StepKeepsProgrammesSound : Prop := ∀ s t : State, ProgrammesSound s → step s = .next t → ProgrammesSound t

/-- A stream number identifies at most one flow among the programmes and tracks in use (R14). -/
def Obligations.StepKeepsStreamsDistinct : Prop := ∀ s t : State, StreamsDistinct s → step s = .next t → StreamsDistinct t

/-- Every cue list stays ordered by start or earliest tick and then by cue id, with no cue id twice, no empty subtitle cue and at most 512
cues (R37). -/
def Obligations.StepKeepsCueListsOrdered : Prop := ∀ s t : State, ListsOrdered s → step s = .next t → ListsOrdered t

/-- The track lists and the track table agree, and every subtitle cue in the store ends after its programme's cut line (R27, R37,
R63). -/
def Obligations.StepKeepsTablesAgreedAndNoCueBehindTheCutLine : Prop :=
  ∀ s t : State, TablesAgree s ∧ CuesEndAfterCutLine s → step s = .next t → TablesAgree t ∧ CuesEndAfterCutLine t
end

