-- ==== Sys2Proof/Laws/State.lean ====
section
/-! SUPPORT. One lemma for each field and each update of the state: what a field reads after it. -/

namespace Sys2Proof.Machine

@[simp] theorem State.setProg_rx (s : State) (p : ProgSlot) (r : Option Programme) : (s.setProg p r).rx = s.rx := rfl
@[simp] theorem State.setProg_counters (s : State) (p : ProgSlot) (r : Option Programme) : (s.setProg p r).counters = s.counters := rfl
@[simp] theorem State.setProg_tracks (s : State) (p : ProgSlot) (r : Option Programme) : (s.setProg p r).tracks = s.tracks := rfl
@[simp] theorem State.setProg_clips (s : State) (p : ProgSlot) (r : Option Programme) : (s.setProg p r).clips = s.clips := rfl
@[simp] theorem State.setProg_loaderQ (s : State) (p : ProgSlot) (r : Option Programme) : (s.setProg p r).loaderQ = s.loaderQ := rfl
@[simp] theorem State.setProg_loading (s : State) (p : ProgSlot) (r : Option Programme) : (s.setProg p r).loading = s.loading := rfl
@[simp] theorem State.setProg_markQ (s : State) (p : ProgSlot) (r : Option Programme) : (s.setProg p r).markQ = s.markQ := rfl
@[simp] theorem State.setProg_cuts (s : State) (p : ProgSlot) (r : Option Programme) : (s.setProg p r).cuts = s.cuts := rfl
@[simp] theorem State.setProg_audioQ (s : State) (p : ProgSlot) (r : Option Programme) : (s.setProg p r).audioQ = s.audioQ := rfl
@[simp] theorem State.setProg_audio (s : State) (p : ProgSlot) (r : Option Programme) : (s.setProg p r).audio = s.audio := rfl
@[simp] theorem State.setProg_requestQ (s : State) (p : ProgSlot) (r : Option Programme) : (s.setProg p r).requestQ = s.requestQ := rfl
@[simp] theorem State.setProg_fenceWaiting (s : State) (p : ProgSlot) (r : Option Programme) : (s.setProg p r).fenceWaiting = s.fenceWaiting := rfl
@[simp] theorem State.setProg_unitReset (s : State) (p : ProgSlot) (r : Option Programme) : (s.setProg p r).unitReset = s.unitReset := rfl
@[simp] theorem State.setProg_egress (s : State) (p : ProgSlot) (r : Option Programme) : (s.setProg p r).egress = s.egress := rfl
@[simp] theorem State.setProg_lanes (s : State) (p : ProgSlot) (r : Option Programme) : (s.setProg p r).lanes = s.lanes := rfl
@[simp] theorem State.setProg_pending (s : State) (p : ProgSlot) (r : Option Programme) : (s.setProg p r).pending = s.pending := rfl

@[simp] theorem State.setTrack_rx (s : State) (t : TrackSlot) (r : Option Track) : (s.setTrack t r).rx = s.rx := rfl
@[simp] theorem State.setTrack_counters (s : State) (t : TrackSlot) (r : Option Track) : (s.setTrack t r).counters = s.counters := rfl
@[simp] theorem State.setTrack_progs (s : State) (t : TrackSlot) (r : Option Track) : (s.setTrack t r).progs = s.progs := rfl
@[simp] theorem State.setTrack_clips (s : State) (t : TrackSlot) (r : Option Track) : (s.setTrack t r).clips = s.clips := rfl
@[simp] theorem State.setTrack_loaderQ (s : State) (t : TrackSlot) (r : Option Track) : (s.setTrack t r).loaderQ = s.loaderQ := rfl
@[simp] theorem State.setTrack_loading (s : State) (t : TrackSlot) (r : Option Track) : (s.setTrack t r).loading = s.loading := rfl
@[simp] theorem State.setTrack_markQ (s : State) (t : TrackSlot) (r : Option Track) : (s.setTrack t r).markQ = s.markQ := rfl
@[simp] theorem State.setTrack_cuts (s : State) (t : TrackSlot) (r : Option Track) : (s.setTrack t r).cuts = s.cuts := rfl
@[simp] theorem State.setTrack_audioQ (s : State) (t : TrackSlot) (r : Option Track) : (s.setTrack t r).audioQ = s.audioQ := rfl
@[simp] theorem State.setTrack_audio (s : State) (t : TrackSlot) (r : Option Track) : (s.setTrack t r).audio = s.audio := rfl
@[simp] theorem State.setTrack_requestQ (s : State) (t : TrackSlot) (r : Option Track) : (s.setTrack t r).requestQ = s.requestQ := rfl
@[simp] theorem State.setTrack_fenceWaiting (s : State) (t : TrackSlot) (r : Option Track) : (s.setTrack t r).fenceWaiting = s.fenceWaiting := rfl
@[simp] theorem State.setTrack_unitReset (s : State) (t : TrackSlot) (r : Option Track) : (s.setTrack t r).unitReset = s.unitReset := rfl
@[simp] theorem State.setTrack_egress (s : State) (t : TrackSlot) (r : Option Track) : (s.setTrack t r).egress = s.egress := rfl
@[simp] theorem State.setTrack_lanes (s : State) (t : TrackSlot) (r : Option Track) : (s.setTrack t r).lanes = s.lanes := rfl
@[simp] theorem State.setTrack_pending (s : State) (t : TrackSlot) (r : Option Track) : (s.setTrack t r).pending = s.pending := rfl

@[simp] theorem State.modProg_rx (s : State) (p : ProgSlot) (f : Programme → Programme) : (s.modProg p f).rx = s.rx := rfl
@[simp] theorem State.modProg_counters (s : State) (p : ProgSlot) (f : Programme → Programme) : (s.modProg p f).counters = s.counters := rfl
@[simp] theorem State.modProg_tracks (s : State) (p : ProgSlot) (f : Programme → Programme) : (s.modProg p f).tracks = s.tracks := rfl
@[simp] theorem State.modProg_clips (s : State) (p : ProgSlot) (f : Programme → Programme) : (s.modProg p f).clips = s.clips := rfl
@[simp] theorem State.modProg_loaderQ (s : State) (p : ProgSlot) (f : Programme → Programme) : (s.modProg p f).loaderQ = s.loaderQ := rfl
@[simp] theorem State.modProg_loading (s : State) (p : ProgSlot) (f : Programme → Programme) : (s.modProg p f).loading = s.loading := rfl
@[simp] theorem State.modProg_markQ (s : State) (p : ProgSlot) (f : Programme → Programme) : (s.modProg p f).markQ = s.markQ := rfl
@[simp] theorem State.modProg_cuts (s : State) (p : ProgSlot) (f : Programme → Programme) : (s.modProg p f).cuts = s.cuts := rfl
@[simp] theorem State.modProg_audioQ (s : State) (p : ProgSlot) (f : Programme → Programme) : (s.modProg p f).audioQ = s.audioQ := rfl
@[simp] theorem State.modProg_audio (s : State) (p : ProgSlot) (f : Programme → Programme) : (s.modProg p f).audio = s.audio := rfl
@[simp] theorem State.modProg_requestQ (s : State) (p : ProgSlot) (f : Programme → Programme) : (s.modProg p f).requestQ = s.requestQ := rfl
@[simp] theorem State.modProg_fenceWaiting (s : State) (p : ProgSlot) (f : Programme → Programme) : (s.modProg p f).fenceWaiting = s.fenceWaiting := rfl
@[simp] theorem State.modProg_unitReset (s : State) (p : ProgSlot) (f : Programme → Programme) : (s.modProg p f).unitReset = s.unitReset := rfl
@[simp] theorem State.modProg_egress (s : State) (p : ProgSlot) (f : Programme → Programme) : (s.modProg p f).egress = s.egress := rfl
@[simp] theorem State.modProg_lanes (s : State) (p : ProgSlot) (f : Programme → Programme) : (s.modProg p f).lanes = s.lanes := rfl
@[simp] theorem State.modProg_pending (s : State) (p : ProgSlot) (f : Programme → Programme) : (s.modProg p f).pending = s.pending := rfl

@[simp] theorem State.modTrack_rx (s : State) (t : TrackSlot) (f : Track → Track) : (s.modTrack t f).rx = s.rx := rfl
@[simp] theorem State.modTrack_counters (s : State) (t : TrackSlot) (f : Track → Track) : (s.modTrack t f).counters = s.counters := rfl
@[simp] theorem State.modTrack_progs (s : State) (t : TrackSlot) (f : Track → Track) : (s.modTrack t f).progs = s.progs := rfl
@[simp] theorem State.modTrack_clips (s : State) (t : TrackSlot) (f : Track → Track) : (s.modTrack t f).clips = s.clips := rfl
@[simp] theorem State.modTrack_loaderQ (s : State) (t : TrackSlot) (f : Track → Track) : (s.modTrack t f).loaderQ = s.loaderQ := rfl
@[simp] theorem State.modTrack_loading (s : State) (t : TrackSlot) (f : Track → Track) : (s.modTrack t f).loading = s.loading := rfl
@[simp] theorem State.modTrack_markQ (s : State) (t : TrackSlot) (f : Track → Track) : (s.modTrack t f).markQ = s.markQ := rfl
@[simp] theorem State.modTrack_cuts (s : State) (t : TrackSlot) (f : Track → Track) : (s.modTrack t f).cuts = s.cuts := rfl
@[simp] theorem State.modTrack_audioQ (s : State) (t : TrackSlot) (f : Track → Track) : (s.modTrack t f).audioQ = s.audioQ := rfl
@[simp] theorem State.modTrack_audio (s : State) (t : TrackSlot) (f : Track → Track) : (s.modTrack t f).audio = s.audio := rfl
@[simp] theorem State.modTrack_requestQ (s : State) (t : TrackSlot) (f : Track → Track) : (s.modTrack t f).requestQ = s.requestQ := rfl
@[simp] theorem State.modTrack_fenceWaiting (s : State) (t : TrackSlot) (f : Track → Track) : (s.modTrack t f).fenceWaiting = s.fenceWaiting := rfl
@[simp] theorem State.modTrack_unitReset (s : State) (t : TrackSlot) (f : Track → Track) : (s.modTrack t f).unitReset = s.unitReset := rfl
@[simp] theorem State.modTrack_egress (s : State) (t : TrackSlot) (f : Track → Track) : (s.modTrack t f).egress = s.egress := rfl
@[simp] theorem State.modTrack_lanes (s : State) (t : TrackSlot) (f : Track → Track) : (s.modTrack t f).lanes = s.lanes := rfl
@[simp] theorem State.modTrack_pending (s : State) (t : TrackSlot) (f : Track → Track) : (s.modTrack t f).pending = s.pending := rfl

@[simp] theorem State.modSub_rx (s : State) (t : TrackSlot) (f : SubTrack → SubTrack) : (s.modSub t f).rx = s.rx := rfl
@[simp] theorem State.modSub_counters (s : State) (t : TrackSlot) (f : SubTrack → SubTrack) : (s.modSub t f).counters = s.counters := rfl
@[simp] theorem State.modSub_progs (s : State) (t : TrackSlot) (f : SubTrack → SubTrack) : (s.modSub t f).progs = s.progs := rfl
@[simp] theorem State.modSub_clips (s : State) (t : TrackSlot) (f : SubTrack → SubTrack) : (s.modSub t f).clips = s.clips := rfl
@[simp] theorem State.modSub_loaderQ (s : State) (t : TrackSlot) (f : SubTrack → SubTrack) : (s.modSub t f).loaderQ = s.loaderQ := rfl
@[simp] theorem State.modSub_loading (s : State) (t : TrackSlot) (f : SubTrack → SubTrack) : (s.modSub t f).loading = s.loading := rfl
@[simp] theorem State.modSub_markQ (s : State) (t : TrackSlot) (f : SubTrack → SubTrack) : (s.modSub t f).markQ = s.markQ := rfl
@[simp] theorem State.modSub_cuts (s : State) (t : TrackSlot) (f : SubTrack → SubTrack) : (s.modSub t f).cuts = s.cuts := rfl
@[simp] theorem State.modSub_audioQ (s : State) (t : TrackSlot) (f : SubTrack → SubTrack) : (s.modSub t f).audioQ = s.audioQ := rfl
@[simp] theorem State.modSub_audio (s : State) (t : TrackSlot) (f : SubTrack → SubTrack) : (s.modSub t f).audio = s.audio := rfl
@[simp] theorem State.modSub_requestQ (s : State) (t : TrackSlot) (f : SubTrack → SubTrack) : (s.modSub t f).requestQ = s.requestQ := rfl
@[simp] theorem State.modSub_fenceWaiting (s : State) (t : TrackSlot) (f : SubTrack → SubTrack) : (s.modSub t f).fenceWaiting = s.fenceWaiting := rfl
@[simp] theorem State.modSub_unitReset (s : State) (t : TrackSlot) (f : SubTrack → SubTrack) : (s.modSub t f).unitReset = s.unitReset := rfl
@[simp] theorem State.modSub_egress (s : State) (t : TrackSlot) (f : SubTrack → SubTrack) : (s.modSub t f).egress = s.egress := rfl
@[simp] theorem State.modSub_lanes (s : State) (t : TrackSlot) (f : SubTrack → SubTrack) : (s.modSub t f).lanes = s.lanes := rfl
@[simp] theorem State.modSub_pending (s : State) (t : TrackSlot) (f : SubTrack → SubTrack) : (s.modSub t f).pending = s.pending := rfl

@[simp] theorem State.modAd_rx (s : State) (t : TrackSlot) (f : AdTrack → AdTrack) : (s.modAd t f).rx = s.rx := rfl
@[simp] theorem State.modAd_counters (s : State) (t : TrackSlot) (f : AdTrack → AdTrack) : (s.modAd t f).counters = s.counters := rfl
@[simp] theorem State.modAd_progs (s : State) (t : TrackSlot) (f : AdTrack → AdTrack) : (s.modAd t f).progs = s.progs := rfl
@[simp] theorem State.modAd_clips (s : State) (t : TrackSlot) (f : AdTrack → AdTrack) : (s.modAd t f).clips = s.clips := rfl
@[simp] theorem State.modAd_loaderQ (s : State) (t : TrackSlot) (f : AdTrack → AdTrack) : (s.modAd t f).loaderQ = s.loaderQ := rfl
@[simp] theorem State.modAd_loading (s : State) (t : TrackSlot) (f : AdTrack → AdTrack) : (s.modAd t f).loading = s.loading := rfl
@[simp] theorem State.modAd_markQ (s : State) (t : TrackSlot) (f : AdTrack → AdTrack) : (s.modAd t f).markQ = s.markQ := rfl
@[simp] theorem State.modAd_cuts (s : State) (t : TrackSlot) (f : AdTrack → AdTrack) : (s.modAd t f).cuts = s.cuts := rfl
@[simp] theorem State.modAd_audioQ (s : State) (t : TrackSlot) (f : AdTrack → AdTrack) : (s.modAd t f).audioQ = s.audioQ := rfl
@[simp] theorem State.modAd_audio (s : State) (t : TrackSlot) (f : AdTrack → AdTrack) : (s.modAd t f).audio = s.audio := rfl
@[simp] theorem State.modAd_requestQ (s : State) (t : TrackSlot) (f : AdTrack → AdTrack) : (s.modAd t f).requestQ = s.requestQ := rfl
@[simp] theorem State.modAd_fenceWaiting (s : State) (t : TrackSlot) (f : AdTrack → AdTrack) : (s.modAd t f).fenceWaiting = s.fenceWaiting := rfl
@[simp] theorem State.modAd_unitReset (s : State) (t : TrackSlot) (f : AdTrack → AdTrack) : (s.modAd t f).unitReset = s.unitReset := rfl
@[simp] theorem State.modAd_egress (s : State) (t : TrackSlot) (f : AdTrack → AdTrack) : (s.modAd t f).egress = s.egress := rfl
@[simp] theorem State.modAd_lanes (s : State) (t : TrackSlot) (f : AdTrack → AdTrack) : (s.modAd t f).lanes = s.lanes := rfl
@[simp] theorem State.modAd_pending (s : State) (t : TrackSlot) (f : AdTrack → AdTrack) : (s.modAd t f).pending = s.pending := rfl

@[simp] theorem State.count_rx (s : State) (f : UnitCounters → UnitCounters) : (s.count f).rx = s.rx := rfl
@[simp] theorem State.count_progs (s : State) (f : UnitCounters → UnitCounters) : (s.count f).progs = s.progs := rfl
@[simp] theorem State.count_tracks (s : State) (f : UnitCounters → UnitCounters) : (s.count f).tracks = s.tracks := rfl
@[simp] theorem State.count_clips (s : State) (f : UnitCounters → UnitCounters) : (s.count f).clips = s.clips := rfl
@[simp] theorem State.count_loaderQ (s : State) (f : UnitCounters → UnitCounters) : (s.count f).loaderQ = s.loaderQ := rfl
@[simp] theorem State.count_loading (s : State) (f : UnitCounters → UnitCounters) : (s.count f).loading = s.loading := rfl
@[simp] theorem State.count_markQ (s : State) (f : UnitCounters → UnitCounters) : (s.count f).markQ = s.markQ := rfl
@[simp] theorem State.count_cuts (s : State) (f : UnitCounters → UnitCounters) : (s.count f).cuts = s.cuts := rfl
@[simp] theorem State.count_audioQ (s : State) (f : UnitCounters → UnitCounters) : (s.count f).audioQ = s.audioQ := rfl
@[simp] theorem State.count_audio (s : State) (f : UnitCounters → UnitCounters) : (s.count f).audio = s.audio := rfl
@[simp] theorem State.count_requestQ (s : State) (f : UnitCounters → UnitCounters) : (s.count f).requestQ = s.requestQ := rfl
@[simp] theorem State.count_fenceWaiting (s : State) (f : UnitCounters → UnitCounters) : (s.count f).fenceWaiting = s.fenceWaiting := rfl
@[simp] theorem State.count_unitReset (s : State) (f : UnitCounters → UnitCounters) : (s.count f).unitReset = s.unitReset := rfl
@[simp] theorem State.count_egress (s : State) (f : UnitCounters → UnitCounters) : (s.count f).egress = s.egress := rfl
@[simp] theorem State.count_lanes (s : State) (f : UnitCounters → UnitCounters) : (s.count f).lanes = s.lanes := rfl
@[simp] theorem State.count_pending (s : State) (f : UnitCounters → UnitCounters) : (s.count f).pending = s.pending := rfl

@[simp] theorem State.countDropped_rx (s : State) : (s.countDropped).rx = s.rx := rfl
@[simp] theorem State.countDropped_progs (s : State) : (s.countDropped).progs = s.progs := rfl
@[simp] theorem State.countDropped_tracks (s : State) : (s.countDropped).tracks = s.tracks := rfl
@[simp] theorem State.countDropped_clips (s : State) : (s.countDropped).clips = s.clips := rfl
@[simp] theorem State.countDropped_loaderQ (s : State) : (s.countDropped).loaderQ = s.loaderQ := rfl
@[simp] theorem State.countDropped_loading (s : State) : (s.countDropped).loading = s.loading := rfl
@[simp] theorem State.countDropped_markQ (s : State) : (s.countDropped).markQ = s.markQ := rfl
@[simp] theorem State.countDropped_cuts (s : State) : (s.countDropped).cuts = s.cuts := rfl
@[simp] theorem State.countDropped_audioQ (s : State) : (s.countDropped).audioQ = s.audioQ := rfl
@[simp] theorem State.countDropped_audio (s : State) : (s.countDropped).audio = s.audio := rfl
@[simp] theorem State.countDropped_requestQ (s : State) : (s.countDropped).requestQ = s.requestQ := rfl
@[simp] theorem State.countDropped_fenceWaiting (s : State) : (s.countDropped).fenceWaiting = s.fenceWaiting := rfl
@[simp] theorem State.countDropped_unitReset (s : State) : (s.countDropped).unitReset = s.unitReset := rfl
@[simp] theorem State.countDropped_egress (s : State) : (s.countDropped).egress = s.egress := rfl
@[simp] theorem State.countDropped_lanes (s : State) : (s.countDropped).lanes = s.lanes := rfl
@[simp] theorem State.countDropped_pending (s : State) : (s.countDropped).pending = s.pending := rfl

@[simp] theorem State.countDrainDiscard_rx (s : State) : (s.countDrainDiscard).rx = s.rx := rfl
@[simp] theorem State.countDrainDiscard_progs (s : State) : (s.countDrainDiscard).progs = s.progs := rfl
@[simp] theorem State.countDrainDiscard_tracks (s : State) : (s.countDrainDiscard).tracks = s.tracks := rfl
@[simp] theorem State.countDrainDiscard_clips (s : State) : (s.countDrainDiscard).clips = s.clips := rfl
@[simp] theorem State.countDrainDiscard_loaderQ (s : State) : (s.countDrainDiscard).loaderQ = s.loaderQ := rfl
@[simp] theorem State.countDrainDiscard_loading (s : State) : (s.countDrainDiscard).loading = s.loading := rfl
@[simp] theorem State.countDrainDiscard_markQ (s : State) : (s.countDrainDiscard).markQ = s.markQ := rfl
@[simp] theorem State.countDrainDiscard_cuts (s : State) : (s.countDrainDiscard).cuts = s.cuts := rfl
@[simp] theorem State.countDrainDiscard_audioQ (s : State) : (s.countDrainDiscard).audioQ = s.audioQ := rfl
@[simp] theorem State.countDrainDiscard_audio (s : State) : (s.countDrainDiscard).audio = s.audio := rfl
@[simp] theorem State.countDrainDiscard_requestQ (s : State) : (s.countDrainDiscard).requestQ = s.requestQ := rfl
@[simp] theorem State.countDrainDiscard_fenceWaiting (s : State) : (s.countDrainDiscard).fenceWaiting = s.fenceWaiting := rfl
@[simp] theorem State.countDrainDiscard_unitReset (s : State) : (s.countDrainDiscard).unitReset = s.unitReset := rfl
@[simp] theorem State.countDrainDiscard_egress (s : State) : (s.countDrainDiscard).egress = s.egress := rfl
@[simp] theorem State.countDrainDiscard_lanes (s : State) : (s.countDrainDiscard).lanes = s.lanes := rfl
@[simp] theorem State.countDrainDiscard_pending (s : State) : (s.countDrainDiscard).pending = s.pending := rfl

@[simp] theorem State.countIn_rx (s : State) (p : ProgSlot) (f : ProgCounters → ProgCounters) : (s.countIn p f).rx = s.rx := rfl
@[simp] theorem State.countIn_counters (s : State) (p : ProgSlot) (f : ProgCounters → ProgCounters) : (s.countIn p f).counters = s.counters := rfl
@[simp] theorem State.countIn_tracks (s : State) (p : ProgSlot) (f : ProgCounters → ProgCounters) : (s.countIn p f).tracks = s.tracks := rfl
@[simp] theorem State.countIn_clips (s : State) (p : ProgSlot) (f : ProgCounters → ProgCounters) : (s.countIn p f).clips = s.clips := rfl
@[simp] theorem State.countIn_loaderQ (s : State) (p : ProgSlot) (f : ProgCounters → ProgCounters) : (s.countIn p f).loaderQ = s.loaderQ := rfl
@[simp] theorem State.countIn_loading (s : State) (p : ProgSlot) (f : ProgCounters → ProgCounters) : (s.countIn p f).loading = s.loading := rfl
@[simp] theorem State.countIn_markQ (s : State) (p : ProgSlot) (f : ProgCounters → ProgCounters) : (s.countIn p f).markQ = s.markQ := rfl
@[simp] theorem State.countIn_cuts (s : State) (p : ProgSlot) (f : ProgCounters → ProgCounters) : (s.countIn p f).cuts = s.cuts := rfl
@[simp] theorem State.countIn_audioQ (s : State) (p : ProgSlot) (f : ProgCounters → ProgCounters) : (s.countIn p f).audioQ = s.audioQ := rfl
@[simp] theorem State.countIn_audio (s : State) (p : ProgSlot) (f : ProgCounters → ProgCounters) : (s.countIn p f).audio = s.audio := rfl
@[simp] theorem State.countIn_requestQ (s : State) (p : ProgSlot) (f : ProgCounters → ProgCounters) : (s.countIn p f).requestQ = s.requestQ := rfl
@[simp] theorem State.countIn_fenceWaiting (s : State) (p : ProgSlot) (f : ProgCounters → ProgCounters) : (s.countIn p f).fenceWaiting = s.fenceWaiting := rfl
@[simp] theorem State.countIn_unitReset (s : State) (p : ProgSlot) (f : ProgCounters → ProgCounters) : (s.countIn p f).unitReset = s.unitReset := rfl
@[simp] theorem State.countIn_egress (s : State) (p : ProgSlot) (f : ProgCounters → ProgCounters) : (s.countIn p f).egress = s.egress := rfl
@[simp] theorem State.countIn_lanes (s : State) (p : ProgSlot) (f : ProgCounters → ProgCounters) : (s.countIn p f).lanes = s.lanes := rfl
@[simp] theorem State.countIn_pending (s : State) (p : ProgSlot) (f : ProgCounters → ProgCounters) : (s.countIn p f).pending = s.pending := rfl

@[simp] theorem State.post_rx (s : State) (p : ProgSlot) (f : Failure) : (s.post p f).rx = s.rx := rfl
@[simp] theorem State.post_counters (s : State) (p : ProgSlot) (f : Failure) : (s.post p f).counters = s.counters := rfl
@[simp] theorem State.post_tracks (s : State) (p : ProgSlot) (f : Failure) : (s.post p f).tracks = s.tracks := rfl
@[simp] theorem State.post_clips (s : State) (p : ProgSlot) (f : Failure) : (s.post p f).clips = s.clips := rfl
@[simp] theorem State.post_loaderQ (s : State) (p : ProgSlot) (f : Failure) : (s.post p f).loaderQ = s.loaderQ := rfl
@[simp] theorem State.post_loading (s : State) (p : ProgSlot) (f : Failure) : (s.post p f).loading = s.loading := rfl
@[simp] theorem State.post_markQ (s : State) (p : ProgSlot) (f : Failure) : (s.post p f).markQ = s.markQ := rfl
@[simp] theorem State.post_cuts (s : State) (p : ProgSlot) (f : Failure) : (s.post p f).cuts = s.cuts := rfl
@[simp] theorem State.post_audioQ (s : State) (p : ProgSlot) (f : Failure) : (s.post p f).audioQ = s.audioQ := rfl
@[simp] theorem State.post_audio (s : State) (p : ProgSlot) (f : Failure) : (s.post p f).audio = s.audio := rfl
@[simp] theorem State.post_requestQ (s : State) (p : ProgSlot) (f : Failure) : (s.post p f).requestQ = s.requestQ := rfl
@[simp] theorem State.post_fenceWaiting (s : State) (p : ProgSlot) (f : Failure) : (s.post p f).fenceWaiting = s.fenceWaiting := rfl
@[simp] theorem State.post_unitReset (s : State) (p : ProgSlot) (f : Failure) : (s.post p f).unitReset = s.unitReset := rfl
@[simp] theorem State.post_egress (s : State) (p : ProgSlot) (f : Failure) : (s.post p f).egress = s.egress := rfl
@[simp] theorem State.post_lanes (s : State) (p : ProgSlot) (f : Failure) : (s.post p f).lanes = s.lanes := rfl
@[simp] theorem State.post_pending (s : State) (p : ProgSlot) (f : Failure) : (s.post p f).pending = s.pending := rfl

@[simp] theorem State.raiseConcealDone_rx (s : State) (p : ProgSlot) (t : TrackSlot) : (s.raiseConcealDone p t).rx = s.rx := rfl
@[simp] theorem State.raiseConcealDone_counters (s : State) (p : ProgSlot) (t : TrackSlot) : (s.raiseConcealDone p t).counters = s.counters := rfl
@[simp] theorem State.raiseConcealDone_tracks (s : State) (p : ProgSlot) (t : TrackSlot) : (s.raiseConcealDone p t).tracks = s.tracks := rfl
@[simp] theorem State.raiseConcealDone_clips (s : State) (p : ProgSlot) (t : TrackSlot) : (s.raiseConcealDone p t).clips = s.clips := rfl
@[simp] theorem State.raiseConcealDone_loaderQ (s : State) (p : ProgSlot) (t : TrackSlot) : (s.raiseConcealDone p t).loaderQ = s.loaderQ := rfl
@[simp] theorem State.raiseConcealDone_loading (s : State) (p : ProgSlot) (t : TrackSlot) : (s.raiseConcealDone p t).loading = s.loading := rfl
@[simp] theorem State.raiseConcealDone_markQ (s : State) (p : ProgSlot) (t : TrackSlot) : (s.raiseConcealDone p t).markQ = s.markQ := rfl
@[simp] theorem State.raiseConcealDone_cuts (s : State) (p : ProgSlot) (t : TrackSlot) : (s.raiseConcealDone p t).cuts = s.cuts := rfl
@[simp] theorem State.raiseConcealDone_audioQ (s : State) (p : ProgSlot) (t : TrackSlot) : (s.raiseConcealDone p t).audioQ = s.audioQ := rfl
@[simp] theorem State.raiseConcealDone_audio (s : State) (p : ProgSlot) (t : TrackSlot) : (s.raiseConcealDone p t).audio = s.audio := rfl
@[simp] theorem State.raiseConcealDone_requestQ (s : State) (p : ProgSlot) (t : TrackSlot) : (s.raiseConcealDone p t).requestQ = s.requestQ := rfl
@[simp] theorem State.raiseConcealDone_fenceWaiting (s : State) (p : ProgSlot) (t : TrackSlot) : (s.raiseConcealDone p t).fenceWaiting = s.fenceWaiting := rfl
@[simp] theorem State.raiseConcealDone_unitReset (s : State) (p : ProgSlot) (t : TrackSlot) : (s.raiseConcealDone p t).unitReset = s.unitReset := rfl
@[simp] theorem State.raiseConcealDone_egress (s : State) (p : ProgSlot) (t : TrackSlot) : (s.raiseConcealDone p t).egress = s.egress := rfl
@[simp] theorem State.raiseConcealDone_lanes (s : State) (p : ProgSlot) (t : TrackSlot) : (s.raiseConcealDone p t).lanes = s.lanes := rfl
@[simp] theorem State.raiseConcealDone_pending (s : State) (p : ProgSlot) (t : TrackSlot) : (s.raiseConcealDone p t).pending = s.pending := rfl

@[simp] theorem State.raiseEventMissed_rx (s : State) (p : ProgSlot) (t : TrackSlot) : (s.raiseEventMissed p t).rx = s.rx := rfl
@[simp] theorem State.raiseEventMissed_counters (s : State) (p : ProgSlot) (t : TrackSlot) : (s.raiseEventMissed p t).counters = s.counters := rfl
@[simp] theorem State.raiseEventMissed_tracks (s : State) (p : ProgSlot) (t : TrackSlot) : (s.raiseEventMissed p t).tracks = s.tracks := rfl
@[simp] theorem State.raiseEventMissed_clips (s : State) (p : ProgSlot) (t : TrackSlot) : (s.raiseEventMissed p t).clips = s.clips := rfl
@[simp] theorem State.raiseEventMissed_loaderQ (s : State) (p : ProgSlot) (t : TrackSlot) : (s.raiseEventMissed p t).loaderQ = s.loaderQ := rfl
@[simp] theorem State.raiseEventMissed_loading (s : State) (p : ProgSlot) (t : TrackSlot) : (s.raiseEventMissed p t).loading = s.loading := rfl
@[simp] theorem State.raiseEventMissed_markQ (s : State) (p : ProgSlot) (t : TrackSlot) : (s.raiseEventMissed p t).markQ = s.markQ := rfl
@[simp] theorem State.raiseEventMissed_cuts (s : State) (p : ProgSlot) (t : TrackSlot) : (s.raiseEventMissed p t).cuts = s.cuts := rfl
@[simp] theorem State.raiseEventMissed_audioQ (s : State) (p : ProgSlot) (t : TrackSlot) : (s.raiseEventMissed p t).audioQ = s.audioQ := rfl
@[simp] theorem State.raiseEventMissed_audio (s : State) (p : ProgSlot) (t : TrackSlot) : (s.raiseEventMissed p t).audio = s.audio := rfl
@[simp] theorem State.raiseEventMissed_requestQ (s : State) (p : ProgSlot) (t : TrackSlot) : (s.raiseEventMissed p t).requestQ = s.requestQ := rfl
@[simp] theorem State.raiseEventMissed_fenceWaiting (s : State) (p : ProgSlot) (t : TrackSlot) : (s.raiseEventMissed p t).fenceWaiting = s.fenceWaiting := rfl
@[simp] theorem State.raiseEventMissed_unitReset (s : State) (p : ProgSlot) (t : TrackSlot) : (s.raiseEventMissed p t).unitReset = s.unitReset := rfl
@[simp] theorem State.raiseEventMissed_egress (s : State) (p : ProgSlot) (t : TrackSlot) : (s.raiseEventMissed p t).egress = s.egress := rfl
@[simp] theorem State.raiseEventMissed_lanes (s : State) (p : ProgSlot) (t : TrackSlot) : (s.raiseEventMissed p t).lanes = s.lanes := rfl
@[simp] theorem State.raiseEventMissed_pending (s : State) (p : ProgSlot) (t : TrackSlot) : (s.raiseEventMissed p t).pending = s.pending := rfl

@[simp] theorem State.setCtl_rx (s : State) (ctl : List CtlPlace) : (s.setCtl ctl).rx = s.rx := rfl
@[simp] theorem State.setCtl_counters (s : State) (ctl : List CtlPlace) : (s.setCtl ctl).counters = s.counters := rfl
@[simp] theorem State.setCtl_progs (s : State) (ctl : List CtlPlace) : (s.setCtl ctl).progs = s.progs := rfl
@[simp] theorem State.setCtl_tracks (s : State) (ctl : List CtlPlace) : (s.setCtl ctl).tracks = s.tracks := rfl
@[simp] theorem State.setCtl_clips (s : State) (ctl : List CtlPlace) : (s.setCtl ctl).clips = s.clips := rfl
@[simp] theorem State.setCtl_loaderQ (s : State) (ctl : List CtlPlace) : (s.setCtl ctl).loaderQ = s.loaderQ := rfl
@[simp] theorem State.setCtl_loading (s : State) (ctl : List CtlPlace) : (s.setCtl ctl).loading = s.loading := rfl
@[simp] theorem State.setCtl_markQ (s : State) (ctl : List CtlPlace) : (s.setCtl ctl).markQ = s.markQ := rfl
@[simp] theorem State.setCtl_cuts (s : State) (ctl : List CtlPlace) : (s.setCtl ctl).cuts = s.cuts := rfl
@[simp] theorem State.setCtl_audioQ (s : State) (ctl : List CtlPlace) : (s.setCtl ctl).audioQ = s.audioQ := rfl
@[simp] theorem State.setCtl_audio (s : State) (ctl : List CtlPlace) : (s.setCtl ctl).audio = s.audio := rfl
@[simp] theorem State.setCtl_requestQ (s : State) (ctl : List CtlPlace) : (s.setCtl ctl).requestQ = s.requestQ := rfl
@[simp] theorem State.setCtl_fenceWaiting (s : State) (ctl : List CtlPlace) : (s.setCtl ctl).fenceWaiting = s.fenceWaiting := rfl
@[simp] theorem State.setCtl_unitReset (s : State) (ctl : List CtlPlace) : (s.setCtl ctl).unitReset = s.unitReset := rfl
@[simp] theorem State.setCtl_lanes (s : State) (ctl : List CtlPlace) : (s.setCtl ctl).lanes = s.lanes := rfl
@[simp] theorem State.setCtl_pending (s : State) (ctl : List CtlPlace) : (s.setCtl ctl).pending = s.pending := rfl

/-! ### Reading the tables -/

theorem State.prog_def (s : State) (p : ProgSlot) : s.prog p = s.progs[p.val] := rfl

theorem State.track_def (s : State) (t : TrackSlot) : s.track t = s.tracks[t.val] := rfl

/-- A table read depends on the table alone. -/
theorem State.prog_congr {s s' : State} (h : s.progs = s'.progs) (p : ProgSlot) : s.prog p = s'.prog p := by
  simp only [State.prog_def, h]

theorem State.track_congr {s s' : State} (h : s.tracks = s'.tracks) (t : TrackSlot) : s.track t = s'.track t := by
  simp only [State.track_def, h]

@[simp] theorem State.setProg_prog (s : State) (p q : ProgSlot) (r : Option Programme) :
    (s.setProg p r).prog q = if q = p then r else s.prog q := by
  simp only [State.prog_def, State.setProg, Vector.getElem_set, Fin.ext_iff, eq_comm]

@[simp] theorem State.setTrack_track (s : State) (t u : TrackSlot) (r : Option Track) :
    (s.setTrack t r).track u = if u = t then r else s.track u := by
  simp only [State.track_def, State.setTrack, Vector.getElem_set, Fin.ext_iff, eq_comm]

@[simp] theorem State.setProg_track (s : State) (p : ProgSlot) (r : Option Programme) (t : TrackSlot) :
    (s.setProg p r).track t = s.track t := rfl

@[simp] theorem State.setTrack_prog (s : State) (t : TrackSlot) (r : Option Track) (p : ProgSlot) :
    (s.setTrack t r).prog p = s.prog p := rfl

@[simp] theorem State.modProg_prog (s : State) (p q : ProgSlot) (f : Programme → Programme) :
    (s.modProg p f).prog q = if q = p then (s.prog p).map f else s.prog q := by
  simp only [State.modProg, State.setProg_prog]

@[simp] theorem State.modTrack_track (s : State) (t u : TrackSlot) (f : Track → Track) :
    (s.modTrack t f).track u = if u = t then (s.track t).map f else s.track u := by
  simp only [State.modTrack, State.setTrack_track]

@[simp] theorem State.modProg_track (s : State) (p : ProgSlot) (f : Programme → Programme) (t : TrackSlot) :
    (s.modProg p f).track t = s.track t := rfl

@[simp] theorem State.modTrack_prog (s : State) (t : TrackSlot) (f : Track → Track) (p : ProgSlot) :
    (s.modTrack t f).prog p = s.prog p := rfl

@[simp] theorem State.modSub_prog (s : State) (t : TrackSlot) (f : SubTrack → SubTrack) (p : ProgSlot) :
    (s.modSub t f).prog p = s.prog p := rfl

@[simp] theorem State.modAd_prog (s : State) (t : TrackSlot) (f : AdTrack → AdTrack) (p : ProgSlot) :
    (s.modAd t f).prog p = s.prog p := rfl

@[simp] theorem State.modSub_track (s : State) (t u : TrackSlot) (f : SubTrack → SubTrack) :
    (s.modSub t f).track u = if u = t then (s.track t).map (·.modSub f) else s.track u := by
  simp only [State.modSub, State.modTrack_track]

@[simp] theorem State.modAd_track (s : State) (t u : TrackSlot) (f : AdTrack → AdTrack) :
    (s.modAd t f).track u = if u = t then (s.track t).map (·.modAd f) else s.track u := by
  simp only [State.modAd, State.modTrack_track]

@[simp] theorem State.setCtl_prog (s : State) (ctl : List CtlPlace) (p : ProgSlot) : (s.setCtl ctl).prog p = s.prog p := rfl

@[simp] theorem State.setCtl_track (s : State) (ctl : List CtlPlace) (t : TrackSlot) : (s.setCtl ctl).track t = s.track t := rfl

@[simp] theorem State.count_prog (s : State) (f : UnitCounters → UnitCounters) (p : ProgSlot) :
    (s.count f).prog p = s.prog p := rfl

@[simp] theorem State.count_track (s : State) (f : UnitCounters → UnitCounters) (t : TrackSlot) :
    (s.count f).track t = s.track t := rfl

@[simp] theorem State.post_prog (s : State) (p q : ProgSlot) (f : Failure) :
    (s.post p f).prog q = if q = p then (s.prog p).map (·.post f) else s.prog q := by
  simp only [State.post, State.modProg_prog]

@[simp] theorem State.post_track (s : State) (p : ProgSlot) (f : Failure) (t : TrackSlot) :
    (s.post p f).track t = s.track t := rfl

@[simp] theorem State.countIn_prog (s : State) (p q : ProgSlot) (f : ProgCounters → ProgCounters) :
    (s.countIn p f).prog q = if q = p then (s.prog p).map (fun r => { r with counters := f r.counters }) else s.prog q := by
  simp only [State.countIn, State.modProg_prog]

@[simp] theorem State.countIn_track (s : State) (p : ProgSlot) (f : ProgCounters → ProgCounters) (t : TrackSlot) :
    (s.countIn p f).track t = s.track t := rfl

/-! ### A programme in use, a track in use -/

theorem State.modProg_of_some {s : State} {p : ProgSlot} {r : Programme} (h : s.prog p = some r) (f : Programme → Programme) :
    s.modProg p f = s.setProg p (some (f r)) := by
  simp only [State.modProg, h, Option.map_some]

theorem State.modProg_of_none {s : State} {p : ProgSlot} (h : s.prog p = none) (f : Programme → Programme) :
    s.modProg p f = s.setProg p none := by
  simp only [State.modProg, h, Option.map_none]

theorem State.modTrack_of_some {s : State} {t : TrackSlot} {x : Track} (h : s.track t = some x) (f : Track → Track) :
    s.modTrack t f = s.setTrack t (some (f x)) := by
  simp only [State.modTrack, h, Option.map_some]

theorem State.modAd_of_ad {s : State} {t : TrackSlot} {x : Track} {a : AdTrack} (h : s.track t = some x) (ha : x.body = .ad a)
    (f : AdTrack → AdTrack) : s.modAd t f = s.setTrack t (some { x with body := .ad (f a) }) := by
  simp only [State.modAd, State.modTrack_of_some h, Track.modAd, ha]

theorem State.modSub_of_sub {s : State} {t : TrackSlot} {x : Track} {b : SubTrack} (h : s.track t = some x)
    (hb : x.body = .sub b) (f : SubTrack → SubTrack) : s.modSub t f = s.setTrack t (some { x with body := .sub (f b) }) := by
  simp only [State.modSub, State.modTrack_of_some h, Track.modSub, hb]

theorem State.ad?_of_ad {s : State} {t : TrackSlot} {x : Track} {a : AdTrack} (h : s.track t = some x) (ha : x.body = .ad a) :
    s.ad? t = some a := by
  simp only [State.ad?, h, Option.bind_some, Track.ad?, ha]

theorem State.sub?_of_sub {s : State} {t : TrackSlot} {x : Track} {b : SubTrack} (h : s.track t = some x) (hb : x.body = .sub b) :
    s.sub? t = some b := by
  simp only [State.sub?, h, Option.bind_some, Track.sub?, hb]

/-! ### Writing twice, writing what stands -/

@[simp] theorem State.setProg_setProg (s : State) (p : ProgSlot) (r r' : Option Programme) :
    (s.setProg p r).setProg p r' = s.setProg p r' := by
  simp [State.setProg]

@[simp] theorem State.setTrack_setTrack (s : State) (t : TrackSlot) (x x' : Option Track) :
    (s.setTrack t x).setTrack t x' = s.setTrack t x' := by
  simp [State.setTrack]

@[simp] theorem State.setProg_self (s : State) (p : ProgSlot) : s.setProg p (s.prog p) = s := by
  simp [State.setProg, State.prog]

@[simp] theorem State.setTrack_self (s : State) (t : TrackSlot) : s.setTrack t (s.track t) = s := by
  simp [State.setTrack, State.track]

theorem State.setProg_of_eq {s : State} {p : ProgSlot} {r : Option Programme} (h : s.prog p = r) : s.setProg p r = s := by
  rw [← h, State.setProg_self]

theorem State.setTrack_of_eq {s : State} {t : TrackSlot} {x : Option Track} (h : s.track t = x) : s.setTrack t x = s := by
  rw [← h, State.setTrack_self]

/-- The two tables are written independently. -/
theorem State.setTrack_setProg (s : State) (p : ProgSlot) (r : Option Programme) (t : TrackSlot) (x : Option Track) :
    (s.setProg p r).setTrack t x = (s.setTrack t x).setProg p r := rfl

end Sys2Proof.Machine
end

