-- ==== Sys2Proof/Laws/Bytes.lean ====
section
/-! SUPPORT. What stands in bytes: the header's tests and the hunt, the records of a CUELOAD, the samples of a body, the bytes of a parcel
the part makes. -/

namespace Sys2Proof.Machine

/-! ### Reading -/

theorem beNat_snoc (bs : List Byte) (b : Byte) : beNat (bs ++ [b]) = 256 * beNat bs + b.toNat := by
  simp [beNat, List.foldl_append, Nat.mul_comm]

theorem take_two_iff (bs : List Byte) (h : bs.length = 9) :
    (bs.take 2 == [0xB7, 0x4E]) = true ↔ byteAt bs 0 = 0xB7 ∧ byteAt bs 1 = 0x4E := by
  match bs, h with
  | a :: b :: rest, _ => simp [byteAt]

/-- The tests of a header (R127, R128). -/
theorem headerAccepts_iff (bs : List Byte) : headerAccepts bs = true ↔ bs.length = 9 ∧ byteAt bs 0 = 0xB7 ∧ byteAt bs 1 = 0x4E ∧
    fieldAt bs 7 2 = (crc16 (bs.take 7)).toNat ∧ fieldAt bs 5 2 ≤ 12288 := by
  unfold headerAccepts
  by_cases h : bs.length = 9
  · simp only [h, Bool.and_eq_true, take_two_iff bs h, beq_iff_eq, Config.bodyLimit, true_and]
    constructor
    · rintro ⟨⟨⟨a, b⟩, c⟩, d⟩; exact ⟨a, b, c.symm, of_decide_eq_true d⟩
    · rintro ⟨a, b, c, d⟩; exact ⟨⟨⟨a, b⟩, c.symm⟩, decide_eq_true d⟩
  · simp [h]

/-- A hunt ends at the first nine bytes that are a header (R128). -/
theorem huntFor_iff (bytes h rest : List Byte) : huntFor bytes = some (h, rest) ↔ ∃ skipped, bytes = skipped ++ h ++ rest ∧
    headerAccepts h = true ∧ ∀ i, i < skipped.length → headerAccepts ((bytes.drop i).take 9) = false := by
  have h9 : ∀ x, headerAccepts x = true → x.length = 9 := fun x hx => ((headerAccepts_iff x).mp hx).1
  induction bytes with
  | nil =>
    simp only [huntFor, reduceCtorEq, false_iff]
    rintro ⟨sk, e, ha, -⟩
    have := h9 h ha
    have e := congrArg List.length e
    simp at e; omega
  | cons b bs ih =>
    rw [huntFor]
    by_cases ha : headerAccepts ((b :: bs).take 9) = true
    · rw [if_pos ha]
      constructor
      · intro e; cases e
        exact ⟨[], by simp, ha, by simp⟩
      · rintro ⟨sk, e, hh, hs⟩
        cases sk with
        | nil =>
          have hl := h9 h hh
          simp at e
          rw [e, List.take_append_of_le_length (by omega), List.take_of_length_le (by omega),
            List.drop_append_of_le_length (by omega), List.drop_of_length_le (by omega)]
          simp
        | cons y ys => exact absurd (hs 0 (by simp)) (by rw [List.drop_zero, ha]; decide)
    · rw [if_neg ha]
      refine Iff.trans ih ?_
      constructor
      · rintro ⟨sk, e, hh, hs⟩
        refine ⟨b :: sk, by simp [e], hh, fun i hi => ?_⟩
        cases i with
        | zero => simpa using ha
        | succ i => simpa using hs i (by simpa using hi)
      · rintro ⟨sk, e, hh, hs⟩
        cases sk with
        | nil =>
          exfalso; apply ha
          have hl := h9 h hh
          simp at e
          rw [e, List.take_append_of_le_length (by omega), List.take_of_length_le (by omega)]; exact hh
        | cons y ys =>
          simp at e
          refine ⟨ys, by simp [e.2], hh, fun i hi => ?_⟩
          simpa using hs (i + 1) (by simpa using hi)

/-- Walking `n` records: each declares its own length and is at least 8 bytes long (R163). -/
theorem walkRecords_iff : ∀ (n : Nat) (bs : List Byte) (records : List (List Byte)), walkRecords n bs = some records ↔
    bs = records.flatten ∧ records.length = n ∧ ∀ r ∈ records, 8 ≤ r.length ∧ fieldAt r 0 2 = r.length
  | 0, bs, records => by
    unfold walkRecords
    constructor
    · intro h; split at h
      · cases h; simp_all
      · cases h
    · rintro ⟨h, h2, -⟩
      have : records = [] := List.length_eq_zero_iff.mp h2
      subst this; simp at h; simp [h]
  | n + 1, bs, records => by
    unfold walkRecords
    have tk : ∀ m, 2 ≤ m → fieldAt (bs.take m) 0 2 = fieldAt bs 0 2 := by
      intro m hm; simp [fieldAt, List.take_take, min_eq_left hm]
    constructor
    · intro h
      split at h
      · rename_i hc
        simp at hc
        obtain ⟨⟨h1, h2⟩, h3⟩ := hc
        obtain ⟨rs, hr, rfl⟩ := Option.map_eq_some_iff.mp h
        obtain ⟨a, b, c⟩ := (walkRecords_iff n _ rs).mp hr
        refine ⟨?_, by simp [b], ?_⟩
        · rw [List.flatten_cons, ← a, List.take_append_drop]
        · intro r hr
          rcases List.mem_cons.mp hr with rfl | hr
          · rw [tk _ (by omega)]; simp; omega
          · exact c r hr
      · cases h
    · rintro ⟨rfl, h2, h3⟩
      cases records with
      | nil => simp at h2
      | cons r rs =>
        have ⟨r8, rl⟩ := h3 r (by simp)
        have e : fieldAt (r :: rs).flatten 0 2 = r.length := by
          rw [← rl]; simp only [fieldAt, List.drop_zero, List.flatten_cons]; rw [List.take_append_of_le_length (by omega)]
        rw [e, if_pos (by simp; omega)]
        have d : (r :: rs).flatten.drop r.length = rs.flatten := by simp
        have t : (r :: rs).flatten.take r.length = r := by simp
        rw [d, t, (walkRecords_iff n rs.flatten rs).mpr ⟨rfl, by simpa using h2, fun x hx => h3 x (by simp [hx])⟩]; rfl

theorem cueloadRecords_iff (body : List Byte) (records : List (List Byte)) : cueloadRecords body = some records ↔
    2 ≤ body.length ∧ body.drop 2 = records.flatten ∧ records.length = (byteAt body 1).toNat ∧
    ∀ r ∈ records, 8 ≤ r.length ∧ fieldAt r 0 2 = r.length := by
  unfold cueloadRecords
  split
  · rename_i h; rw [walkRecords_iff]; simp [h]
  · rename_i h; simp [h]

/-- Samples stand as pairs of bytes, most significant first (R163). -/
theorem samplesOf_spec : ∀ (n : Nat) (bs : List Byte), bs.length = 2 * n → (samplesOf bs).length = n ∧
    (samplesOf bs).flatMap (fun y => be 2 y.toNat) = bs ∧
    ∀ i, i < n → (samplesOf bs)[i]? = some (byteAt bs (2 * i) ++ byteAt bs (2 * i + 1))
  | 0, bs, h => by
    have : bs = [] := List.length_eq_zero_iff.mp h
    subst this; simp [samplesOf]
  | n + 1, hi :: lo :: rest, h => by
    obtain ⟨a, b, c⟩ := samplesOf_spec n rest (by simp at h; omega)
    refine ⟨by simp [samplesOf, a], ?_, ?_⟩
    · have : be 2 (hi ++ lo).toNat = [hi, lo] := by
        have h1 := hi.isLt; have h2 := lo.isLt
        have e : (hi ++ lo).toNat = hi.toNat * 256 + lo.toNat := by
          rw [BitVec.toNat_append, Nat.shiftLeft_eq, Nat.mul_comm, ← Nat.two_pow_add_eq_or_of_lt (by omega)]
        simp only [be, e]
        congr 1
        · apply BitVec.eq_of_toNat_eq; simp [Nat.shiftRight_eq_div_pow]; omega
        · congr 1; apply BitVec.eq_of_toNat_eq; simp; omega
      simp [samplesOf, b, this]
    · intro i hi'
      cases i with
      | zero => simp [samplesOf, byteAt]
      | succ i =>
        have := c i (by omega)
        simp only [samplesOf, List.getElem?_cons_succ, this, byteAt]
        simp [show 2 * (i + 1) = 2 * i + 1 + 1 by omega]

/-! ### Making -/

theorem be_zero (n : Nat) : be n 0 = List.replicate n 0 := by
  induction n with
  | zero => rfl
  | succ n ih => simp [be, ih, List.replicate_succ]

theorem addressByte_eq (unit : BitVec 4) (p : ProgSlot) : addressByte unit p = (unit ++ BitVec.ofNat 4 p.val : BitVec 8) := by
  revert unit p; decide +kernel

/-- A parcel the part makes, byte for byte (R162). -/
theorem makeParcel_bytes (kind stream : Byte) (unit : BitVec 4) (p : ProgSlot) (body : List Byte) :
    (makeParcel kind (addressByte unit p) stream body).bytes = laneBytes kind unit p stream body := by
  unfold makeParcel Parcel.bytes laneBytes headerBytes
  simp only [addressByte_eq]

theorem Style.bytes_eq (x : Style) : x.bytes = styleOnLane x := by
  obtain ⟨a, b, c, d, e, f⟩ := x
  cases a <;> cases b <;> cases d <;> cases e <;> cases f <;>
    simp [Style.bytes, styleOnLane, be, Alignment.number, Anchor.number, Background.number, TextSize.number]

/-- An entry of a SUBSEG, byte for byte (R163). -/
theorem Entry.bytes_eq (e : Entry) : e.bytes = be 4 e.id ++ be 4 e.relStart ++ be 4 e.relEnd ++ be 1 e.region ++ styleOnLane e.style
      ++ be 1 (e.flags.contIn.toNat + 2 * e.flags.contOut.toNat + 4 * e.flags.trimmed.toNat + 8 * e.flags.forced.toNat
        + 16 * e.flags.concealed.toNat + 32 * e.flags.styleDefaulted.toNat)
      ++ be 1 e.lines.length ++ e.lines.flatMap fun l => be 1 l.length ++ l := by
  unfold Entry.bytes
  rw [Style.bytes_eq]
  have : e.flags.number = (e.flags.contIn.toNat + 2 * e.flags.contOut.toNat + 4 * e.flags.trimmed.toNat + 8 * e.flags.forced.toNat
        + 16 * e.flags.concealed.toNat + 32 * e.flags.styleDefaulted.toNat) := by
    simp only [EntryFlags.number, flagByte]; ring
  rw [this]

end Sys2Proof.Machine
end

