-- ==== Sys2Proof/Laws/Lists.lean ====
section
/-! SUPPORT. Ordered insertion, and folds of the state over slots. -/

namespace Sys2Proof.Machine

theorem insertBy_perm {α : Type} (before : α → α → Bool) (x : α) (l : List α) : (insertBy before x l).Perm (x :: l) := by
  induction l with
  | nil => exact .refl _
  | cons y ys ih =>
    unfold insertBy
    split
    · exact .refl _
    · exact (ih.cons y).trans (.swap x y ys)

/-- An inserted value stands before the first member that it comes before. -/
theorem insertBy_split {α : Type} (before : α → α → Bool) (x : α) (l : List α) : ∃ front back, l = front ++ back ∧
    insertBy before x l = front ++ x :: back ∧ (∀ y ∈ front, before x y = false) ∧ ∀ y, back.head? = some y → before x y = true := by
  induction l with
  | nil => exact ⟨[], [], rfl, rfl, by simp, by simp⟩
  | cons y ys ih =>
    unfold insertBy
    by_cases h : before x y = true
    · exact ⟨[], y :: ys, rfl, by simp [h], by simp, by simp [h]⟩
    · obtain ⟨front, back, h1, h2, h3, h4⟩ := ih
      refine ⟨y :: front, back, by simp [h1], by simp [h, h2], ?_, h4⟩
      intro z hz
      rcases List.mem_cons.mp hz with rfl | hz
      · simpa using h
      · exact h3 z hz

theorem sortBy_perm {α : Type} (before : α → α → Bool) (l : List α) : (sortBy before l).Perm l := by
  induction l with
  | nil => exact .refl _
  | cons y ys ih => exact (insertBy_perm before y _).trans (ih.cons y)

theorem mem_insertBy {α : Type} (before : α → α → Bool) (x y : α) (l : List α) : y ∈ insertBy before x l ↔ y = x ∨ y ∈ l :=
  (insertBy_perm before x l).mem_iff.trans List.mem_cons

theorem length_insertBy {α : Type} (before : α → α → Bool) (x : α) (l : List α) : (insertBy before x l).length = l.length + 1 :=
  (insertBy_perm before x l).length_eq

/-- Insertion keeps a list in an order `R` that `before` gives where it holds, and that the converse of `before` gives on members
of the list where it does not. -/
theorem insertBy_pairwise {α : Type} (before : α → α → Bool) (R : α → α → Prop) (htrans : ∀ a b c, R a b → R b c → R a c)
    (x : α) (l : List α) (hyes : ∀ y ∈ l, before x y = true → R x y) (hno : ∀ y ∈ l, before x y = false → R y x)
    (h : l.Pairwise R) : (insertBy before x l).Pairwise R := by
  induction l with
  | nil => simp [insertBy]
  | cons y ys ih =>
    have hy := List.pairwise_cons.mp h
    unfold insertBy
    split
    · rename_i hb
      have hxy := hyes y List.mem_cons_self hb
      refine List.pairwise_cons.mpr ⟨fun z hz => ?_, h⟩
      rcases List.mem_cons.mp hz with rfl | hz
      · exact hxy
      · exact htrans _ _ _ hxy (hy.1 z hz)
    · rename_i hb
      have hyx := hno y List.mem_cons_self (by simpa using hb)
      refine List.pairwise_cons.mpr ⟨fun z hz => ?_, ?_⟩
      · rcases (mem_insertBy before x z ys).mp hz with rfl | hz
        · exact hyx
        · exact hy.1 z hz
      · exact ih (fun z hz => hyes z (List.mem_cons_of_mem _ hz)) (fun z hz => hno z (List.mem_cons_of_mem _ hz)) hy.2

/-- What every step of a fold keeps, the fold keeps. -/
theorem foldl_keeps {ι β : Type} (f : State → ι → State) (g : State → β) (hf : ∀ s i, g (f s i) = g s) (l : List ι) (s : State) :
    g (l.foldl f s) = g s := by
  induction l generalizing s with
  | nil => rfl
  | cons i l ih => exact (ih _).trans (hf _ _)

/-- A fold whose steps write the two tables only. -/
theorem foldl_tables {ι : Type} (f : State → ι → State)
    (hf : ∀ s i, f s i = { s with progs := (f s i).progs, tracks := (f s i).tracks }) (l : List ι) (s : State) :
    l.foldl f s = { s with progs := (l.foldl f s).progs, tracks := (l.foldl f s).tracks } := by
  induction l generalizing s with
  | nil => rfl
  | cons i l ih => rw [List.foldl_cons, ih, hf s i]

/-- Changing each track of a list by a change that does twice what it does once. -/
theorem foldl_modTrack (g : TrackSlot → Track → Track) (hg : ∀ t x, g t (g t x) = g t x) (ts : List TrackSlot) (s : State)
    (u : TrackSlot) :
    (ts.foldl (fun s t => s.modTrack t (g t)) s).track u = if u ∈ ts then (s.track u).map (g u) else s.track u := by
  induction ts generalizing s with
  | nil => simp
  | cons t ts ih =>
    rw [List.foldl_cons, ih, State.modTrack_track]
    by_cases hut : u = t
    · subst hut
      by_cases hu : u ∈ ts
      · simp [hu, Function.comp_def, hg]
      · simp [hu]
    · by_cases hu : u ∈ ts <;> simp [hu, hut]

/-- Freeing each track of a list. -/
theorem freeTracks_track (ts : List TrackSlot) (s : State) (u : TrackSlot) :
    (s.freeTracks ts).track u = if u ∈ ts then none else s.track u := by
  induction ts generalizing s with
  | nil => simp [State.freeTracks]
  | cons t ts ih =>
    show ((s.setTrack t none).freeTracks ts).track u = _
    rw [ih, State.setTrack_track]
    by_cases hut : u = t
    · subst hut; simp
    · by_cases hu : u ∈ ts <;> simp [hu, hut]

end Sys2Proof.Machine
end

