-- ==== Sys2Proof/Laws/Clips.lean ====
section
/-! SUPPORT. Freeing clips and dropping references, said once. -/

namespace Sys2Proof.Machine

/-- The freeing test of several clip ids, one after another, frees each of them that no AD cue references (R94). -/
theorem foldl_freeingTest (p : ProgSlot) (ids : List Nat) (s : State) :
    ids.foldl (fun s id => s.freeingTest p id) s
      = { s with clips := s.clips.filter fun c => !(decide (c.prog = p) && decide (c.id ∈ ids) && !s.references p c.id) } := by
  induction ids generalizing s with
  | nil => simp
  | cons a l ih =>
    rw [List.foldl_cons, ih]
    have hr : ∀ i, (s.freeingTest p a).references p i = s.references p i := by
      intro i; unfold State.freeingTest; split <;> rfl
    simp only [hr]
    unfold State.freeingTest
    split
    · rename_i h
      congr 1
      apply List.filter_congr
      intro c _
      by_cases h1 : c.id = a
      · subst h1; simp [h]
      · simp [h1]
    · rename_i h
      simp only [List.filter_filter]
      congr 1
      apply List.filter_congr
      intro c _
      by_cases h1 : c.id = a
      · subst h1; by_cases h2 : c.prog = p <;> simp [h, Clip.isOf, h2]
      · simp [h1, Clip.isOf]

theorem State.dropReferences_track (s : State) (ts : List TrackSlot) (t u : TrackSlot) :
    (s.dropReferences ts t).track u = if u ∈ ts then (s.track u).map (·.dropReference t) else s.track u :=
  foldl_modTrack (fun _ x => x.dropReference t)
    (fun _ x => by
      cases hx : x.body with
      | ad a => simp [Track.dropReference, Track.modSub, hx]
      | sub b => by_cases hb : b.reference = some t <;> simp [Track.dropReference, Track.modSub, hx, hb]) ts s u

theorem State.dropReferences_eq (s : State) (ts : List TrackSlot) (t : TrackSlot) :
    s.dropReferences ts t = { s with tracks := (s.dropReferences ts t).tracks } := by
  have h := foldl_tables (fun s u => s.modTrack u (·.dropReference t)) (fun _ _ => rfl) ts s
  have hp := foldl_keeps (fun s u => s.modTrack u (·.dropReference t)) State.progs (fun _ _ => rfl) ts s
  rw [hp] at h
  exact h

theorem State.clearTracks_track (s : State) (ts : List TrackSlot) (u : TrackSlot) :
    (s.clearTracks ts).track u = if u ∈ ts then (s.track u).map Track.cleared else s.track u :=
  foldl_modTrack (fun _ x => x.cleared)
    (fun _ x => by cases hx : x.body <;> by_cases hs : x.state = .concealing <;> simp [Track.cleared, hx, hs]) ts s u

theorem State.freeTracks_eq (s : State) (ts : List TrackSlot) :
    s.freeTracks ts = { s with tracks := (s.freeTracks ts).tracks } := by
  have h := foldl_tables (fun s t => s.setTrack t none) (fun _ _ => rfl) ts s
  have hp := foldl_keeps (fun s t => s.setTrack t none) State.progs (fun _ _ => rfl) ts s
  rw [hp] at h
  exact h

theorem State.clearTracks_eq (s : State) (ts : List TrackSlot) :
    s.clearTracks ts = { s with tracks := (s.clearTracks ts).tracks } := by
  have h := foldl_tables (fun s t => s.modTrack t Track.cleared) (fun _ _ => rfl) ts s
  have hp := foldl_keeps (fun s t => s.modTrack t Track.cleared) State.progs (fun _ _ => rfl) ts s
  rw [hp] at h
  exact h

end Sys2Proof.Machine
end

