-- ==== Sys2Proof/Laws/Requests.lean ====
section
/-! SUPPORT. What taking a request does, said once: the queue room tests as inequalities, a refusal, an answer, a deferral. -/

namespace Sys2Proof.Machine

/-! ### Room -/

theorem State.thruRoom_eq (s : State) : s.thruRoom = decide (s.egress.thru.length < 32) := rfl
theorem State.audioRoom_eq (s : State) : s.audioRoom = decide (s.audioQ.length < 8) := rfl
theorem State.markRoom_eq (s : State) : s.markRoom = decide (s.markQ.length < 8) := rfl
theorem State.loaderRoom_eq (s : State) : s.loaderRoom = decide (s.loaderQ.length < 32) := rfl
theorem State.requestRoom_eq (s : State) : s.requestRoom = decide (s.requestQ.length < 4) := rfl
theorem State.mixRoom_eq (s : State) : s.mixRoom = decide (s.egress.mix.length < 32) := rfl
theorem bump32_eq (a n : Nat) : bump32 a n = min 4294967295 (a + n) := rfl
theorem State.countDropped_eq (s : State) : s.countDropped = s.oneDropped := rfl
theorem State.countDrainDiscard_eq (s : State) : s.countDrainDiscard = s.oneDiscarded := rfl

theorem State.post_of_some {s : State} {p : ProgSlot} {r : Programme} (h : s.prog p = some r) (f : Failure) :
    s.post p f = s.setProg p (some (r.post f)) := State.modProg_of_some h _

theorem State.post_of_none {s : State} {p : ProgSlot} (h : s.prog p = none) (f : Failure) : s.post p f = s := by
  rw [State.post, State.modProg_of_none h, State.setProg_of_eq h]

theorem State.countIn_of_some {s : State} {p : ProgSlot} {r : Programme} (h : s.prog p = some r)
    (f : ProgCounters → ProgCounters) : s.countIn p f = s.setProg p (some { r with counters := f r.counters }) :=
  State.modProg_of_some h _

/-- The head leaves the ingress buffer, OPEN or CLOSED. -/
theorem State.leaveBuffer_eq {s : State} {e : IngressEntry} {rest : List IngressEntry} (hb : s.rx.buffer = e :: rest) :
    s.leaveBuffer = s.unbuffered rest := by
  cases hc : s.rx.closed <;> simp [State.leaveBuffer, State.unbuffered, hc, hb]

/-- The head has been passed to THRU. -/
theorem State.pass_leaveBuffer_eq {s : State} {e : IngressEntry} {rest : List IngressEntry} (hb : s.rx.buffer = e :: rest) :
    (s.pass e.parcel).leaveBuffer = s.passed e rest :=
  State.leaveBuffer_eq (s := s.pass e.parcel) hb

/-! ### Taking a request -/

theorem CanTake.canTake {s : State} {q : Request} {rest : List Request} {name : Byte} (h : CanTake s q rest name) :
    s.canTake = true := by
  obtain ⟨-, -, hf, hu, hc⟩ := h
  have : (s.ctlFree != 0) = true := by
    have : Config.ctlQueue = 16 := rfl
    have h' : s.ctlFree ≠ 0 := by rw [State.ctlFree, this]; omega
    exact bne_iff_ne.mpr h'
  rw [State.canTake, hf, hu, this]; rfl

/-- A request that can be taken is worked on the state in which it has left its queue and holds a CTL place; an answer fills that place. -/
theorem CanTake.takeRequest {s : State} {q : Request} {rest : List Request} {name : Byte} (h : CanTake s q rest name)
    (names : Byte → Bool) (hn : names name = true) (work : State → Request → Worked) :
    s.takeRequest names work
      = match work (s.promised q rest) q with
        | (s', some a) => s'.replyTo q a
        | (s', none) => s' := by
  have hc := h.canTake
  obtain ⟨hq, hn', -⟩ := h
  have e : s.reserve q rest = s.promised q rest := rfl
  simp only [State.takeRequest, hq, hc, hn', hn, e, Bool.and_self, if_true]
  all_goals (rcases work (s.promised q rest) q with ⟨s', _ | a⟩ <;> rfl)

theorem State.replyTo_promised (s : State) (q : Request) (rest : List Request) (code : ResultCode) (fields : List Byte) :
    (s.promised q rest).replyTo q ⟨code, fields⟩ = s.replied q rest code fields := by
  simp [State.replyTo, State.promised, State.setCtl, State.replied]

/-- A request whose work is a refusal is answered with its code, and the reply alone changes the part. -/
theorem CanTake.refused {s : State} {q : Request} {rest : List Request} {name : Byte} (h : CanTake s q rest name)
    (names : Byte → Bool) (hn : names name = true) (work : State → Request → Worked) (code : ResultCode)
    (hw : work (s.promised q rest) q = refuse (s.promised q rest) code) :
    s.takeRequest names work = s.replied q rest code [] := by
  rw [h.takeRequest names hn work, hw]
  exact s.replyTo_promised q rest code []

@[simp] theorem State.promised_prog (s : State) (q : Request) (rest : List Request) (p : ProgSlot) :
    (s.promised q rest).prog p = s.prog p := rfl
@[simp] theorem State.promised_track (s : State) (q : Request) (rest : List Request) (t : TrackSlot) :
    (s.promised q rest).track t = s.track t := rfl
@[simp] theorem State.replied_prog (s : State) (q : Request) (rest : List Request) (c : ResultCode) (f : List Byte) (p : ProgSlot) :
    (s.replied q rest c f).prog p = s.prog p := rfl
@[simp] theorem State.replied_track (s : State) (q : Request) (rest : List Request) (c : ResultCode) (f : List Byte) (t : TrackSlot) :
    (s.replied q rest c f).track t = s.track t := rfl

/-- A programme without a deferred request, ACTIVE or HALTED, takes a request of it (R11). -/
theorem Programme.takes.judge {s : State} {q : Request} {r : Programme} (hp : s.prog q.prog = some r) (h : r.takes) :
    s.judge q true = .ok r := by
  obtain ⟨hs, hd⟩ := h
  rcases hs with hs | hs <;> simp [State.judge, hp, hd, hs]

/-- The work of a request that its programme takes and whose parameters have their length. -/
theorem Programme.takes.judged {s : State} {q : Request} {r : Programme} (hp : s.prog q.prog = some r) (h : r.takes) {n : Nat}
    (hl : q.params.length = n) (work : Programme → Worked) : s.judged q true n work = work r := by
  simp only [State.judged, h.judge hp, hl, if_true]

/-- The work of a request whose parameters have not their length is a refusal with RANGE. -/
theorem Programme.takes.judged_wrongLength {s : State} {q : Request} {r : Programme} (hp : s.prog q.prog = some r)
    (h : r.takes) {n : Nat} (hl : q.params.length ≠ n) (work : Programme → Worked) :
    s.judged q true n work = refuse s .range := by
  simp only [State.judged, h.judge hp, hl, if_false]

/-- The track that a byte names. -/
theorem State.trackOf_of_track {s : State} {p : ProgSlot} {n : Nat} {t : TrackSlot} {x : Track} (hn : n = t.val)
    (ht : s.track t = some x) (hx : x.prog = p) : s.trackOf p n = some (t, x) := by
  subst hn
  simp [State.trackOf, trackSlotOf, ht, hx]

theorem State.trackOf_of_large {s : State} {p : ProgSlot} {n : Nat} (hn : 63 < n) : s.trackOf p n = none := by
  simp only [State.trackOf, trackSlotOf, dif_neg (show ¬ n < 64 by omega)]

theorem State.trackOf_of_free {s : State} {p : ProgSlot} {n : Nat} {t : TrackSlot} (hn : n = t.val) (ht : s.track t = none) :
    s.trackOf p n = none := by
  subst hn
  simp [State.trackOf, trackSlotOf, ht]

theorem State.trackOf_of_other {s : State} {p : ProgSlot} {n : Nat} {t : TrackSlot} {x : Track} (hn : n = t.val)
    (ht : s.track t = some x) (hx : x.prog ≠ p) : s.trackOf p n = none := by
  subst hn
  simp [State.trackOf, trackSlotOf, ht, hx]

theorem State.NamesNoTrack.trackOf {s : State} {p : ProgSlot} {slot : Byte} (h : s.NamesNoTrack p slot) :
    s.trackOf p slot.toNat = none := by
  rcases h with h | ⟨t, h, h' | ⟨x, h', hx⟩⟩
  · exact State.trackOf_of_large h
  · exact State.trackOf_of_free h h'
  · exact State.trackOf_of_other h h' hx

/-- The tests of a stream number, for every programme and every track (R14). -/
theorem State.streamInUse_eq_false (s : State) (b : Byte) : s.streamInUse b = false ↔
    (∀ p r, s.prog p = some r → r.stream ≠ b) ∧ ∀ t x, s.track t = some x → x.stream ≠ b := by
  unfold State.streamInUse
  rw [Bool.or_eq_false_iff]
  simp only [List.any_eq_false, progSlots, trackSlots, List.mem_finRange, true_imp_iff, Option.any_eq_true, not_exists, not_and,
    beq_iff_eq]

end Sys2Proof.Machine
end

