-- ==== Sys2Proof/Laws/Loader.lean ====
section
/-! SUPPORT. The cue loader's shared operations, said once: taking an entry, reaching a record, a record that fails, the tests of
a PLACE, a reserved place filled. -/

namespace Sys2Proof.Machine

/-- With no current entry the head of the loader queue is taken, on the state without it. -/
theorem execLoaderTake_of_head {s : State} {e : LoaderEntry} {rest : List LoaderEntry} (hl : s.loading = none)
    (hq : s.loaderQ = e :: rest) :
    execLoaderTake s = .next (match e with
      | .cueload p o => { s with loaderQ := rest }.takeParcel p.slot .cueload o ({ s with loaderQ := rest }.takeCueload p o)
      | .narration p o =>
        { s with loaderQ := rest }.takeParcel p.slot .narration o { s with loaderQ := rest, loading := some (.narration p o) }
      | .fence p _ => { s with loaderQ := rest }.answerFence p) := by
  unfold execLoaderTake
  split
  · rename_i h; rw [hl] at h; cases h
  · split
    · rename_i h; rw [hq] at h; cases h
    · rename_i e' rest' h; rw [hq] at h; cases h; cases e <;> rfl

theorem length_of_walkRecords : ∀ (n : Nat) (bs : List Byte) (recs : List (List Byte)),
    walkRecords n bs = some recs → recs.length = n := by
  intro n
  induction n with
  | zero => intro bs recs h; simp [walkRecords] at h; simp [h.2.symm]
  | succ n ih =>
    intro bs recs h
    simp only [walkRecords] at h
    split at h
    · obtain ⟨a, ha, rfl⟩ := Option.map_eq_some_iff.mp h
      simp [ih _ _ ha]
    · cases h

/-- A CUELOAD holds as many records as its record count says (R163). -/
theorem length_of_cueloadRecords {body : List Byte} {recs : List (List Byte)} (h : cueloadRecords body = some recs) :
    recs.length = (byteAt body 1).toNat := by
  unfold cueloadRecords at h
  split at h
  · exact length_of_walkRecords _ _ _ h
  · cases h

theorem Fills.fillPlace {before after : List CtlPlace} {a b : CtlPlace} (h : Fills before after a b) :
    fillPlace a b before = after := by
  obtain ⟨front, back, h1, h2, h3⟩ := h
  subst h1 h3
  induction front with
  | nil => simp [Machine.fillPlace]
  | cons c cs ih =>
    have hc : c ≠ a := by rintro rfl; simp at h2
    simp only [List.cons_append, Machine.fillPlace, if_neg hc]
    rw [ih fun hx => h2 (List.mem_cons_of_mem _ hx)]

theorem length_fillPlace (a b : CtlPlace) (ctl : List CtlPlace) : (fillPlace a b ctl).length = ctl.length := by
  induction ctl with
  | nil => rfl
  | cons c cs ih => by_cases h : c = a <;> simp [fillPlace, h, ih]

theorem RecordFits.recordTrack {s : State} {c : CueLoading} {rec : List Byte} {t : TrackSlot} {x : Track}
    (h : RecordFits s c rec t x) : s.recordTrack c rec = .ok (t, x) := by
  obtain ⟨h1, h2, h3, h4, h5, h6⟩ := h
  simp [State.recordTrack, State.trackOf_of_track h1 h2 h3, h4, h5, h6]

/-- A record that the loader has reached is applied, or fails and is posted; then the loader goes on. -/
theorem AtRecord.reachRecord {s : State} {c : CueLoading} {rec : List Byte} {rest : List (List Byte)} {r : Programme}
    (h : AtRecord s c rec rest r) (op : Nat → Bool) (hop : op (recordOp rec) = true)
    (apply : State → CueLoading → Programme → List Byte → Except ResultCode State) :
    s.reachRecord op apply = match apply s c r rec with
      | .ok s' => s'.advanceLoader c rest
      | .error e => (s.failRecord c rec e).advanceLoader c rest := by
  obtain ⟨h1, h2, h3, h4⟩ := h
  simp only [State.reachRecord, h1, h2, hop, h3, h4, Bool.not_true, Bool.false_eq_true, if_false]
  all_goals (rcases apply s c r rec with e | s' <;> rfl)

theorem State.advanceLoader_eq (s : State) (c : CueLoading) (rest : List (List Byte)) :
    s.advanceLoader c rest = { s with loading := leftToLoad c rest } := by
  cases rest <;> rfl

theorem AtRecord.failRecord {s : State} {c : CueLoading} {rec : List Byte} {rest : List (List Byte)} {r : Programme}
    (h : AtRecord s c rec rest r) (e : ResultCode) :
    (s.failRecord c rec e).advanceLoader c rest = s.recordFailed c rest r (recordId rec) e := by
  obtain ⟨-, -, h3, -⟩ := h
  rw [State.advanceLoader_eq, State.failRecord, State.recordFailed]
  by_cases he : e = .late
  · simp only [he, if_true]
    rw [State.countIn_of_some h3, State.post_of_some (by rw [State.setProg_prog, if_pos rfl]), State.setProg_setProg]
    rfl
  · simp only [he, if_false]
    rw [State.post_of_some h3]

theorem id_of_subPlaceOf {rec : List Byte} {pl : SubPlace} (h : subPlaceOf rec = some pl) : pl.id = recordId rec := by
  unfold subPlaceOf at h
  split at h
  · cases h
  · split at h
    · cases h
    · split at h
      · cases h; rfl
      · cases h

/-! ### PLACE -/

/-- A subtitle record holds as many lines as its line count says (R163). -/
theorem length_of_linesOf : ∀ (n : Nat) (bs : List Byte) (ls : List (List Byte)), linesOf n bs = some ls → ls.length = n := by
  intro n
  induction n with
  | zero => intro bs ls h; simp [linesOf] at h; simp [h.2.symm]
  | succ n ih =>
    intro bs ls h
    cases bs with
    | nil => simp [linesOf] at h
    | cons l bs =>
      simp only [linesOf] at h
      split at h
      · obtain ⟨a, ha, rfl⟩ := Option.map_eq_some_iff.mp h
        simp [ih _ _ ha]
      · cases h

/-- The room test of a subtitle PLACE (R43). -/
theorem State.roomForSub_iff (s : State) (b : SubTrack) (old : Option SubCue) (c : SubCue) :
    s.roomForSub b old c = true ↔ s.RoomFor b.cues.length c.lines.length (old.map fun y => y.lines.length) := by
  simp only [State.roomForSub, State.RoomFor, Bool.and_eq_true, decide_eq_true_eq, and_assoc, Option.isSome_map]
  exact Iff.rfl

/-- The room test of a description PLACE (R43). -/
theorem State.roomForAd_iff (s : State) (b : AdTrack) (old : Option AdCue) :
    s.roomForAd b old = true ↔ s.RoomFor b.cues.length 0 (old.map fun _ => 0) := by
  simp only [State.roomForAd, State.RoomFor, Bool.and_eq_true, decide_eq_true_eq, Nat.zero_le, true_and, Option.isSome_map]
  exact Iff.rfl

/-- The tests of R39 and R41 that a subtitle record of ticks [a, z) above the cut line passes, and the cue it becomes. -/
theorem Track.Admits.testedSubCue {x : Track} {b : SubTrack} {pl : SubPlace} {r : Programme} {a z stop : Nat}
    (h : x.Admits b (max a r.cutLine) z stop) (ha : r.timebase.tick pl.startUnit = some a)
    (hz : r.timebase.tick pl.endUnit = some z) (haz : a < z) (hcut : r.cutLine < z) :
    Machine.testedSubCue pl r x b = .ok {
      id := pl.id
      start := max a r.cutLine
      stop := stop
      region := pl.region
      style := pl.style
      forced := pl.forced
      lines := pl.lines
      trimmed := decide (a < r.cutLine) || decide (stop < z)
      emitted := false } := by
  simp only [Machine.testedSubCue, SubPlace.cue, ha, hz, Nat.not_le.mpr haz, if_false, SubCue.againstCutLine, Nat.not_le.mpr hcut]
  have hs : (if a < r.cutLine then r.cutLine else a) = max a r.cutLine := by split <;> omega
  rcases h with ⟨h1, rfl⟩ | ⟨h1, f, e, mode, hw, h⟩
  · by_cases hlt : a < r.cutLine
    · simp [hlt, Track.testWindow, h1, max_eq_right hlt.le]
    · simp [hlt, Track.testWindow, h1, max_eq_left (not_lt.mp hlt)]
  · have key : ∀ tr, (SubCue.againstWindow ⟨pl.id, max a r.cutLine, z, pl.region, pl.style, pl.forced, pl.lines, tr, false⟩ ⟨f, e, mode⟩)
        = .ok ⟨pl.id, max a r.cutLine, stop, pl.region, pl.style, pl.forced, pl.lines, tr || decide (stop < z), false⟩ := by
      intro tr
      unfold SubCue.againstWindow
      rcases h with ⟨h2, rfl⟩ | ⟨h2, rfl, h3⟩
      · by_cases hfz : f < z
        · simp [h2, hfz, min_eq_right hfz.le]
        · have : ¬ f ≤ max a r.cutLine := by omega
          cases mode <;> simp [hfz, min_eq_left (not_lt.mp hfz), this]
      · have : ¬ max a r.cutLine < f := by omega
        rcases h3 with rfl | ⟨T, rfl, h4⟩
        · simp [this]
        · cases mode
          · have h5 : ¬ max a r.cutLine < T := by omega
            simp only [this, decide_false, Bool.false_and, Bool.false_eq_true, if_false, Option.all_some, h5, Bool.and_false, lt_irrefl, Bool.or_false]
          · simp [this]
    by_cases hlt : a < r.cutLine
    · have hm : max a r.cutLine = r.cutLine := max_eq_right hlt.le
      rw [hm] at key ⊢
      simp only [hlt, if_true, Track.testWindow, h1, hw]
      simpa using key true
    · have hm : max a r.cutLine = a := max_eq_left (not_lt.mp hlt)
      rw [hm] at key ⊢
      simp only [hlt, if_false, Track.testWindow, h1, if_true, hw]
      simpa using key false

end Sys2Proof.Machine
end

