-- ==== Sys2Proof/Laws/Cutter.lean ====
section
/-! SUPPORT. The parts of a take, said once: what each writes and what it leaves. -/

namespace Sys2Proof.Machine

/-! ### Tidying the lists -/

theorem SubTrack.tidy_tidy (b : SubTrack) (kept : List Nat) (e : Nat) : (b.tidy kept e).tidy kept e = b.tidy kept e := by
  have h : ∀ l : List SubCue,
      (((l.filter fun c => e < c.stop).map fun c => if kept.contains c.id then { c with emitted := true } else c).filter
        fun c => e < c.stop).map (fun c => if kept.contains c.id then { c with emitted := true } else c)
        = (l.filter fun c => e < c.stop).map fun c => if kept.contains c.id then { c with emitted := true } else c := by
    intro l
    induction l with
    | nil => rfl
    | cons c l ih =>
      by_cases hc : e < c.stop <;> by_cases hk : kept.contains c.id = true <;> simp_all
  simp only [SubTrack.tidy, h]

theorem SubTrack.stop_of_mem_tidy {b : SubTrack} {kept : List Nat} {e : Nat} {c : SubCue} (h : c ∈ (b.tidy kept e).cues) :
    e < c.stop := by
  obtain ⟨y, hy, rfl⟩ := List.mem_map.mp h
  have := (List.mem_filter.mp hy).2
  split <;> simpa using this

theorem Track.modSub_modSub (x : Track) (f : SubTrack → SubTrack) (hf : ∀ b, f (f b) = f b) : (x.modSub f).modSub f = x.modSub f := by
  cases hx : x.body <;> simp [Track.modSub, hx, hf]

theorem State.tidyTracks_track (s : State) (ts : List TrackSlot) (cuts : List TrackCut) (e : Nat) (u : TrackSlot) :
    (s.tidyTracks ts cuts e).track u
      = if u ∈ ts then (s.track u).map (·.modSub fun b => b.tidy (keptFor cuts u) e) else s.track u :=
  foldl_modTrack (fun t x => x.modSub fun b => b.tidy (keptFor cuts t) e)
    (fun _ x => x.modSub_modSub _ fun b => b.tidy_tidy _ _) ts s u

theorem State.tidyTracks_eq (s : State) (ts : List TrackSlot) (cuts : List TrackCut) (e : Nat) :
    s.tidyTracks ts cuts e = { s with tracks := (s.tidyTracks ts cuts e).tracks } := by
  have h := foldl_tables (fun s t => s.modSub t fun b => b.tidy (keptFor cuts t) e) (fun _ _ => rfl) ts s
  have hp := foldl_keeps (fun s t => s.modSub t fun b => b.tidy (keptFor cuts t) e) State.progs (fun _ _ => rfl) ts s
  rw [hp] at h
  exact h

/-! ### Posting the overflows -/

theorem Programme.post_keeps (r : Programme) (f : Failure) :
    r.post f = { r with
      state := (r.post f).state
      failureCount := (r.post f).failureCount
      firstError := (r.post f).firstError
      haltCode := (r.post f).haltCode
      notice := { r.notice with halted := (r.post f).notice.halted, firstError := (r.post f).notice.firstError } } := by
  unfold Programme.post Programme.capture Programme.escalate
  split
  · rfl
  · simp only []
    cases r.state <;> simp <;> split <;> simp <;> (try split) <;> simp

theorem State.postOverflows_tracks (s : State) (m : Mark) (cuts : List TrackCut) : (s.postOverflows m cuts).tracks = s.tracks :=
  foldl_keeps (fun s (c : TrackCut) => s.post m.prog ⟨.full, .segmark, some c.seg.track.val, some m.k, m.ordinal⟩) State.tracks
    (fun _ _ => rfl) _ s

theorem State.postOverflows_eq (s : State) (m : Mark) (cuts : List TrackCut) :
    s.postOverflows m cuts = { s with progs := (s.postOverflows m cuts).progs } := by
  have h := foldl_tables (fun s (c : TrackCut) => s.post m.prog ⟨.full, .segmark, some c.seg.track.val, some m.k, m.ordinal⟩)
    (fun _ _ => rfl) (cuts.filter (·.seg.overflow)) s
  have ht := s.postOverflows_tracks m cuts
  unfold State.postOverflows at ht ⊢
  rw [ht] at h
  exact h

theorem State.postOverflows_other (s : State) (m : Mark) (cuts : List TrackCut) {p : ProgSlot} (hp : p ≠ m.prog) :
    (s.postOverflows m cuts).prog p = s.prog p :=
  foldl_keeps _ (fun s => s.prog p) (fun s c => by rw [State.post_prog, if_neg hp]) _ s

/-! ### The posted FULL failures -/

/-- One FULL that does not halt (R15). -/
theorem Programme.post_full_stays (r : Programme) (f : Failure) (hf : f.code = .full)
    (hs : r.state = .halted ∨ (r.state = .active ∧ r.escalation.getLsbD 3 = false)) :
    r.post f = { r with
      firstError := r.firstError.or (some f)
      failureCount := min 65535 (r.failureCount + 1)
      notice := { r.notice with firstError := r.notice.firstError || r.firstError.isNone } } := by
  have he : r.state = .active → escalates r.escalation f.code = false := by
    intro h; rcases hs with h' | ⟨_, h'⟩
    · rw [h] at h'; cases h'
    · rw [hf]; exact h'
  have hne : ¬ f.code = .halted := by rw [hf]; decide
  have hcap : ({ r with failureCount := satAdd 65535 r.failureCount 1 } : Programme).capture f = { r with
      firstError := r.firstError.or (some f)
      failureCount := min 65535 (r.failureCount + 1)
      notice := { r.notice with firstError := r.notice.firstError || r.firstError.isNone } } := by
    cases h : r.firstError <;> simp [Programme.capture, satAdd]
  rw [← hcap]
  unfold Programme.post
  simp only [hne, if_false]
  rcases hs with h | ⟨h, h'⟩
  · split <;> rename_i hh <;> first | rfl | (rw [h] at hh; cases hh)
  · split <;> rename_i hh
    · rw [hcap]
      unfold Programme.escalate
      rw [if_neg]
      rintro ⟨_, h2⟩
      rw [he h] at h2
      exact absurd h2 (by decide)
    all_goals exact absurd (h.symm.trans hh) (by decide)

/-- Posted FULL failures that do not halt, one after another. -/
theorem Programme.posts_full_stay (L : List Failure) (hL : ∀ f ∈ L, f.code = .full) (r : Programme)
    (hs : r.state = .halted ∨ (r.state = .active ∧ r.escalation.getLsbD 3 = false)) :
    L.foldl Programme.post r = { r with
      firstError := r.firstError.or L.head?
      failureCount := if L = [] then r.failureCount else min 65535 (r.failureCount + L.length)
      notice := { r.notice with firstError := r.notice.firstError || (!L.isEmpty && r.firstError.isNone) } } := by
  induction L generalizing r with
  | nil => simp
  | cons f L ih =>
    rw [List.foldl_cons, Programme.post_full_stays r f (hL f (by simp)) hs, ih (fun g hg => hL g (by simp [hg])) _ (by exact hs)]
    have h1 : (r.firstError.or (some f)).or L.head? = r.firstError.or (some f) := by cases r.firstError <;> rfl
    have h2 : (r.firstError.or (some f)).isNone = false := by cases r.firstError <;> rfl
    simp only [h1, h2, List.head?_cons, List.length_cons, Bool.and_false, Bool.or_false, List.isEmpty_cons, Bool.not_false, Bool.true_and]
    congr 1
    by_cases hl : L = []
    · simp [hl]
    · simp [hl]; omega

/-- The FULL failures of a take, one after another: the first that the escalation set names halts the programme (R15, R60). -/
theorem Programme.posts_full (L : List Failure) (hL : ∀ f ∈ L, f.code = .full) (r : Programme) (hs : r.state = .active) :
    L.foldl Programme.post r = { r with
      state := if L ≠ [] ∧ r.escalation.getLsbD 3 = true then .halted else .active
      firstError := r.firstError.or L.head?
      failureCount := if L = [] then r.failureCount else min 65535 (r.failureCount + L.length)
      haltCode := if L ≠ [] ∧ r.escalation.getLsbD 3 = true then some .full else r.haltCode
      notice := { r.notice with
        firstError := r.notice.firstError || (!L.isEmpty && r.firstError.isNone)
        halted := r.notice.halted || (!L.isEmpty && r.escalation.getLsbD 3) } } := by
  cases hb : r.escalation.getLsbD 3
  · rw [Programme.posts_full_stay L hL r (.inr ⟨hs, hb⟩)]
    simp [← hs]
  · cases L with
    | nil => simp [← hs]
    | cons f L =>
      have hf := hL f (by simp)
      have hne : ¬ f.code = .halted := by rw [hf]; decide
      have h1 : r.post f = { r with
          state := .halted
          haltCode := some .full
          firstError := r.firstError.or (some f)
          failureCount := min 65535 (r.failureCount + 1)
          notice := { r.notice with firstError := r.notice.firstError || r.firstError.isNone, halted := true } } := by
        unfold Programme.post Programme.capture Programme.escalate
        simp only [hne, if_false, hs]
        cases h : r.firstError <;> simp [satAdd, escalates, hf, ResultCode.number, hb]
      rw [List.foldl_cons, h1, Programme.posts_full_stay L (fun g hg => hL g (by simp [hg])) _ (.inl rfl)]
      have h1 : (r.firstError.or (some f)).or L.head? = r.firstError.or (some f) := by cases r.firstError <;> rfl
      have h2 : (r.firstError.or (some f)).isNone = false := by cases r.firstError <;> rfl
      simp only [h1, h2]
      simp
      by_cases hl : L = []
      · simp [hl]
      · simp [hl]; omega
/-! ### Completing the windows -/

theorem State.concealed_congr {s s' : State} {t : TrackSlot} (h : s.track t = s'.track t) (e : Nat) : s.concealed t e = s'.concealed t e := by
  simp only [State.concealed, h]

theorem Track.repaired_state (x : Track) : x.repaired.state = .active := by
  cases hx : x.body <;> simp [Track.repaired, Track.modSub, hx]

theorem State.completeConceal_track (s : State) (p : ProgSlot) (t u : TrackSlot) :
    (s.completeConceal p t).track u = if u = t then (s.track t).map Track.repaired else s.track u := by
  simp [State.completeConceal, State.raiseConcealDone]

theorem State.concealed_completed (s : State) (p : ProgSlot) (t : TrackSlot) (e : Nat) : (s.completeConceal p t).concealed t e = false := by
  unfold State.concealed
  rw [State.completeConceal_track, if_pos rfl]
  cases s.track t <;> simp [Track.repaired_state]

/-- What completing the windows leaves of each track (R82). -/
theorem State.completeWindows_track (s : State) (p : ProgSlot) (ts : List TrackSlot) (e : Nat) (u : TrackSlot) :
    (s.completeWindows p ts e).track u = if u ∈ ts ∧ s.concealed u e = true then (s.track u).map Track.repaired else s.track u := by
  induction ts generalizing s with
  | nil => simp [State.completeWindows]
  | cons t ts ih =>
    show ((if s.concealed t e then s.completeConceal p t else s).completeWindows p ts e).track u = _
    rw [ih]
    by_cases hut : u = t
    · subst hut
      by_cases hc : s.concealed u e = true
      · simp only [hc, if_true, State.concealed_completed, List.mem_cons, true_or, true_and, Bool.false_eq_true, and_false, if_false]
        rw [State.completeConceal_track, if_pos rfl]
      · simp [hc]
    · have h : (if s.concealed t e then s.completeConceal p t else s).track u = s.track u := by
        split
        · rw [State.completeConceal_track, if_neg hut]
        · rfl
      rw [State.concealed_congr h, h]
      simp [hut]

/-- The bits of a track set with one track more. -/
theorem trackBit_or (v : BitVec 64) (t u : TrackSlot) : (v ||| trackBit t).getLsbD u.val = (v.getLsbD u.val || decide (u = t)) := by
  have h : (trackBit t).getLsbD u.val = decide (u = t) := by
    have := u.isLt
    simp only [trackBit, BitVec.getLsbD_shiftLeft, BitVec.getLsbD_one, Fin.ext_iff]
    by_cases h : u.val = t.val
    · simp [h]
    · simp [h]; omega
  rw [BitVec.getLsbD_or, h]

/-- What completing the windows leaves of the programme: CONCEAL-DONE with each track completed (R82). -/
theorem State.completeWindows_prog {s : State} {p : ProgSlot} {r : Programme} (hp : s.prog p = some r) (ts : List TrackSlot) (e : Nat) :
    ∃ n : NoticeSlot, (s.completeWindows p ts e).prog p = some { r with notice := n } ∧
      n.halted = r.notice.halted ∧ n.firstError = r.notice.firstError ∧ n.segmentGap = r.notice.segmentGap ∧
      n.eventMissed = r.notice.eventMissed ∧ n.missedTracks = r.notice.missedTracks ∧
      (n.concealDone = true ↔ r.notice.concealDone = true ∨ ∃ t ∈ ts, s.concealed t e = true) ∧
      ∀ t : TrackSlot, n.concealTracks.getLsbD t.val = true ↔
        r.notice.concealTracks.getLsbD t.val = true ∨ (t ∈ ts ∧ s.concealed t e = true) := by
  induction ts generalizing s r with
  | nil => exact ⟨r.notice, hp, rfl, rfl, rfl, rfl, rfl, by simp, by simp⟩
  | cons t ts ih =>
    show ∃ n : NoticeSlot, ((if s.concealed t e then s.completeConceal p t else s).completeWindows p ts e).prog p = _ ∧ _
    by_cases hc : s.concealed t e = true
    · rw [if_pos hc]
      have hp' : (s.completeConceal p t).prog p = some { r with notice := r.notice.raiseConcealDone t } := by
        simp [State.completeConceal, State.raiseConcealDone, hp]
      obtain ⟨n, h0, h1, h2, h3, h4, h5, h6, h7⟩ := ih hp'
      have hcon : ∀ u, (s.completeConceal p t).concealed u e = true ↔ u ≠ t ∧ s.concealed u e = true := by
        intro u
        by_cases hut : u = t
        · subst hut; simp [State.concealed_completed]
        · rw [State.concealed_congr (s' := s) (by rw [State.completeConceal_track, if_neg hut])]; simp [hut]
      refine ⟨n, h0, h1, h2, h3, h4, h5, ?_, fun u => ?_⟩
      · rw [h6]
        simp only [NoticeSlot.raiseConcealDone, true_or, List.mem_cons, exists_eq_or_imp, hc, or_true]
      · rw [h7]
        simp only [NoticeSlot.raiseConcealDone, hcon, List.mem_cons]
        rw [trackBit_or]
        by_cases hut : u = t
        · subst hut; simp [hc]
        · simp [hut]
    · rw [if_neg hc]
      obtain ⟨n, h0, h1, h2, h3, h4, h5, h6, h7⟩ := ih hp
      refine ⟨n, h0, h1, h2, h3, h4, h5, ?_, fun u => ?_⟩
      · rw [h6]; simp [hc]
      · rw [h7]
        by_cases hut : u = t
        · subst hut; simp [hc]
        · simp [hut]


theorem State.completeWindows_eq (s : State) (p : ProgSlot) (ts : List TrackSlot) (e : Nat) :
    s.completeWindows p ts e
      = { s with progs := (s.completeWindows p ts e).progs, tracks := (s.completeWindows p ts e).tracks } :=
  foldl_tables _ (fun s t => by split <;> rfl) ts s

theorem State.completeWindows_other (s : State) (p : ProgSlot) (ts : List TrackSlot) (e : Nat) {q : ProgSlot} (hq : q ≠ p) :
    (s.completeWindows p ts e).prog q = s.prog q :=
  foldl_keeps _ (fun s => s.prog q)
    (fun s t => by split <;> simp [State.completeConceal, State.raiseConcealDone, hq]) ts s

theorem Track.repaired_ad? (x : Track) : x.repaired.ad? = x.ad? := by
  cases hx : x.body <;> simp [Track.repaired, Track.modSub, Track.ad?, hx]

theorem Track.repaired_cues (x : Track) : x.repaired.sub?.map (·.cues) = x.sub?.map (·.cues) := by
  cases hx : x.body <;> simp [Track.repaired, Track.modSub, Track.sub?, hx]

theorem State.completeWindows_ad? (s : State) (p : ProgSlot) (ts : List TrackSlot) (e : Nat) (u : TrackSlot) :
    (s.completeWindows p ts e).ad? u = s.ad? u := by
  refine foldl_keeps _ (fun s => s.ad? u) (fun s t => ?_) ts s
  split
  · by_cases hu : u = t
    · subst hu
      cases hx : s.track u <;>
        simp [State.ad?, State.completeConceal, State.raiseConcealDone, hx, Track.repaired_ad?]
    · simp [State.ad?, State.completeConceal, State.raiseConcealDone, hu]
  · rfl

theorem State.completeWindows_cues (s : State) (p : ProgSlot) (ts : List TrackSlot) (e : Nat) (u : TrackSlot) :
    ((s.completeWindows p ts e).sub? u).map (·.cues) = (s.sub? u).map (·.cues) := by
  refine foldl_keeps _ (fun s => (s.sub? u).map (·.cues)) (fun s t => ?_) ts s
  split
  · by_cases hu : u = t
    · subst hu
      cases hx : s.track u with
      | none => simp [State.sub?, State.completeConceal, State.raiseConcealDone, hx]
      | some x =>
        have h := x.repaired_cues
        simpa [State.sub?, State.completeConceal, State.raiseConcealDone, hx] using h
    · simp [State.sub?, State.completeConceal, State.raiseConcealDone, hu]
  · rfl

theorem State.completeWindows_of_not_mem (s : State) (p : ProgSlot) (ts : List TrackSlot) (e : Nat) {u : TrackSlot} (hu : u ∉ ts) :
    (s.completeWindows p ts e).track u = s.track u := by
  rw [State.completeWindows_track, if_neg fun h => hu h.1]

end Sys2Proof.Machine
end

