-- ==== Sys2Proof/Laws/Events.lean ====
section
/-! SUPPORT. A step of an AD track, said once: what reaching it runs, what a MISSED cue leaves, what the overdue part leaves. -/

namespace Sys2Proof.Machine

/-! ### The step that is reached -/

theorem State.freeingTest_eq (s : State) (p : ProgSlot) (id : Nat) : s.freeingTest p id = s.clipFreed p id := by
  unfold State.freeingTest State.clipFreed
  split
  · rfl
  · rfl

theorem continueAudio_leftToStep {s : State} {w : AudioWork} (hr : w.toRender = []) (hn : w.rendered = none) (rest : List TrackSlot) :
    s.continueAudio { w with toStep := rest } = { s with audio := leftToStep w rest } := by
  unfold State.continueAudio leftToStep
  simp only [hr, hn]
  cases rest <;> rfl

/-- A step that is reached runs both its parts on the state in which the current parcel has gone on. -/
theorem ReachesStep.eventStep {s : State} {w : AudioWork} {t : TrackSlot} {rest : List TrackSlot} {r : Programme} {x : Track} {a : AdTrack}
    (h : ReachesStep s w t rest r x a) :
    execEventStep s = .next (({ s with audio := leftToStep w rest } : State).stepTrack w.copy.prog t w.copy.ordinal w.tick) := by
  obtain ⟨h1, h2, h3, h4, h5, h6, -, -⟩ := h
  have hh : s.haltedAt w.copy.prog = false := by
    unfold State.haltedAt
    rw [h5]
    cases hs : r.state <;> first | (exact absurd hs h6) | (simp [hs])
  unfold execEventStep
  split
  · rename_i h; rw [h1] at h; cases h
  · rename_i w' h; rw [h1] at h; cases h
    have hg : (!w.toRender.isEmpty || w.rendered.isSome) = false := by rw [h2, h3]; rfl
    rw [hg, h4]
    simp only [Bool.false_eq_true, if_false, hh]
    rw [continueAudio_leftToStep h2 h3]

/-- Where no waiting cue is overdue the step is its second part alone. -/
theorem AtStep.eventStep {s : State} {w : AudioWork} {t : TrackSlot} {rest : List TrackSlot} {r : Programme} {x : Track} {a : AdTrack}
    (h : AtStep s w t rest r x a) :
    execEventStep s = .next (({ s with audio := leftToStep w rest } : State).actEngine w.copy.prog t w.copy.ordinal w.tick) := by
  obtain ⟨h, ho⟩ := h
  rw [h.eventStep]
  have ha : ({ s with audio := leftToStep w rest } : State).ad? t = some a := State.ad?_of_ad h.2.2.2.2.2.2.1 h.2.2.2.2.2.2.2
  have : a.overdue w.tick = [] := by
    unfold AdTrack.overdue
    rw [List.filter_eq_nil_iff]
    intro c hc
    simpa using ho c hc
  unfold State.stepTrack State.missOverdue
  rw [ha]
  simp only [this, List.foldl_nil]

/-- The second part of a step acts by the engine. -/
theorem ReachesStep.actEngine {s : State} {w : AudioWork} {t : TrackSlot} {rest : List TrackSlot} {r : Programme} {x : Track} {a : AdTrack}
    (h : ReachesStep s w t rest r x a) (o : BitVec 32) (tick : Nat) :
    let s' : State := { s with audio := leftToStep w rest }
    s'.actEngine w.copy.prog t o tick = match a.engine with
      | .idle => s'.stepIdle w.copy.prog t r a o tick
      | .attack left c => s'.goOnAttack t left c
      | .play page c => s'.goOnPlay w.copy.prog t a page c
      | .release left c => s'.stepRelease w.copy.prog t r a o tick left c := by
  obtain ⟨h1, h2, h3, h4, h5, h6, h7, h8⟩ := h
  intro s'
  have hp : s'.prog w.copy.prog = some r := h5
  have ha : s'.ad? t = some a := State.ad?_of_ad h7 h8
  unfold State.actEngine
  simp only [hp, ha]
  all_goals (cases a.engine <;> rfl)

/-! ### A head that waits, arms, triggers or is missed (R106 to R108) -/

/-- A head that waits for its earliest tick, or none, lets the engine go on. -/
theorem AdTrack.HeadWaits.headVerdict {a : AdTrack} {tick : Nat} (hw : a.HeadWaits tick) (s : State) (p : ProgSlot) (r : Programme) :
    s.headVerdict p r a tick = none ∨ ∃ h, s.headVerdict p r a tick = some (h, .waits) := by
  unfold State.headVerdict
  cases hh : a.cues.head? with
  | none => exact .inl rfl
  | some h =>
    obtain ⟨g1, g2⟩ := hw h hh
    exact .inr ⟨h, by simp [AdCue.verdict, g1, g2]⟩

theorem AdCue.held_iff (h : AdCue) (r : Programme) : h.held r = true ↔ h.QuietEnough r := by
  simp [AdCue.held, AdCue.QuietEnough]

/-! ### MISSED (R112) -/

/-- A posted failure leaves a programme in service, ACTIVE or HALTED, if it was, and else in its drain (R15). -/
theorem Programme.post_state (r : Programme) (f : Failure) :
    (r.post f).state = r.state ∨ (r.state = .active ∧ (r.post f).state = .halted) := by
  unfold Programme.post Programme.capture Programme.escalate
  cases hs : r.state <;> (try split) <;> simp_all
  all_goals (split <;> (try split) <;> simp_all)

/-- Changing a programme that has just been written. -/
theorem State.setProg_modProg (s : State) (p : ProgSlot) (r : Programme) (f : Programme → Programme) :
    (s.setProg p (some r)).modProg p f = s.setProg p (some (f r)) := by
  rw [State.modProg_of_some (r := r) (by simp), State.setProg_setProg]

/-- One MISSED cue: it leaves the list, its programme counts and posts it, and its clip is freed unless it is still referenced. -/
theorem State.cueMissed_eq {s : State} {p : ProgSlot} {t : TrackSlot} {r : Programme} {x : Track} {a : AdTrack} (hp : s.prog p = some r)
    (ht : s.track t = some x) (hb : x.body = .ad a) (code : ResultCode) (o : BitVec 32) (c : AdCue) :
    s.cueMissed p t code o c
      = (((s.setTrack t (some { x with body := .ad (a.remove c.id) })).setProg p (some (r.oneMissed t c.id code o))).clipFreed p c.clip) := by
  rw [State.cueMissed, State.modAd_of_ad ht hb, State.countIn_of_some (r := r) (by exact hp), State.post, State.setProg_modProg,
    State.raiseEventMissed, State.setProg_modProg, State.freeingTest_eq]
  congr 3
  have h := Programme.post_state { r with counters := { r.counters with eventsMissed := bump32 r.counters.eventsMissed 1 } }
    ⟨code, .event, some t.val, some c.id, o⟩
  unfold Programme.oneMissed
  rw [← bump32_eq]
  generalize Programme.post _ _ = r' at h ⊢
  change r'.state = r.state ∨ r.state = .active ∧ r'.state = .halted at h
  split <;> rename_i hs <;> rw [hs] at h
  · rw [if_pos (.inl (by rcases h with h | h; exact h.symm; exact absurd h.2 (by decide)))]; rfl
  · rw [if_pos (by rcases h with h | h; exact .inr h.symm; exact .inl h.1)]; rfl
  all_goals rw [if_neg (by rcases h with h | h; rw [← h]; decide; exact absurd h.2 (by decide))]

/-! ### The first part of a step (R105) -/

/-- Whether a clip is referenced depends on the list and the current cue of one AD track, and on what the other tracks hold (R93). -/
theorem State.references_setTrack (s : State) (p : ProgSlot) (t : TrackSlot) (x : Track) (id : Nat) :
    ∃ o : Bool, ∀ a : AdTrack, (s.setTrack t (some { x with body := .ad a })).references p id
      = (o || (x.prog == p && a.clipIds.contains id)) := by
  refine ⟨trackSlots.any fun u => u != t && (s.track u).any fun r => r.prog == p && r.ad?.any fun a => a.clipIds.contains id,
    fun a => ?_⟩
  rw [Bool.eq_iff_iff]
  simp only [State.references, List.any_eq_true, Bool.or_eq_true, State.setTrack_track, Bool.and_eq_true]
  constructor
  · rintro ⟨u, hu, h⟩
    by_cases hut : u = t
    · subst hut
      rw [if_pos rfl] at h
      simp only [Option.any_some, Track.ad?, Bool.and_eq_true] at h
      exact .inr h
    · rw [if_neg hut] at h
      exact .inl ⟨u, hu, by simpa using hut, h⟩
  · rintro (⟨u, hu, hut, h⟩ | h)
    · exact ⟨u, hu, by rw [if_neg (by simpa using hut)]; exact h⟩
    · refine ⟨t, by simp [trackSlots], ?_⟩
      rw [if_pos rfl]
      simp only [Option.any_some, Track.ad?, Bool.and_eq_true]
      exact h

/-- The state after the cues `l` of an AD track's list have been MISSED, one after another. -/
def State.allMissed (s : State) (p : ProgSlot) (t : TrackSlot) (r : Programme) (x : Track) (a : AdTrack) (code : ResultCode)
    (o : BitVec 32) (l : List AdCue) : State :=
  let s₁ := (s.setTrack t (some { x with body := .ad { a with cues := a.cues.filter fun c => !(l.map (·.id)).contains c.id } })).setProg p
    (some (l.foldl (fun r c => r.oneMissed t c.id code o) r))
  { s₁ with clips := s.clips.filter fun c => !(decide (c.prog = p) && decide (c.id ∈ l.map (·.clip)) && !s₁.references p c.id) }

/-- Distinct cues of the list missed one after another: the list without them, one count and failure each, and each of their clips freed
that is not referenced at the end (R105, R112). -/
theorem State.foldl_cueMissed {s : State} {p : ProgSlot} {t : TrackSlot} {r : Programme} {x : Track} {a : AdTrack} (hp : s.prog p = some r)
    (ht : s.track t = some x) (hb : x.body = .ad a) (code : ResultCode) (o : BitVec 32) (hn : (a.cues.map (·.id)).Nodup) (l : List AdCue)
    (hl : ∀ c ∈ l, c ∈ a.cues) (hd : (l.map (·.id)).Nodup) :
    l.foldl (fun s c => s.cueMissed p t code o c) s = s.allMissed p t r x a code o l := by
  induction l using List.reverseRecOn with
  | nil =>
    have hx : ({ x with body := .ad a } : Track) = x := by rw [← hb]
    simp only [List.foldl_nil, State.allMissed, List.map_nil, List.contains_nil, Bool.not_false, List.filter_true, List.not_mem_nil,
      decide_false, Bool.and_false, Bool.false_and]
    rw [hx, State.setTrack_of_eq ht, State.setProg_of_eq hp]
  | append_singleton l c ih =>
    rw [List.foldl_append, ih (fun c hc => hl c (List.mem_append_left _ hc)) (List.nodup_append.mp (List.map_append ▸ hd)).1]
    simp only [List.foldl_cons, List.foldl_nil]
    have hc : c ∈ a.cues := hl c (by simp)
    have hcl : c.id ∉ l.map (·.id) := by
      intro h
      simp only [List.map_append, List.map_cons, List.map_nil, List.nodup_append] at hd
      exact hd.2.2 _ h _ (by simp) rfl
    let s₁ := s.allMissed p t r x a code o l
    have hp₁ : s₁.prog p = some (l.foldl (fun r c => r.oneMissed t c.id code o) r) := by
      show (State.setProg _ p _).prog p = _
      simp
    have ht₁ : s₁.track t = some { x with body := .ad { a with cues := a.cues.filter fun c => !(l.map (·.id)).contains c.id } } := by
      show (State.setTrack s t _).track t = _
      simp
    rw [State.cueMissed_eq hp₁ ht₁ rfl]
    have hf : (AdTrack.remove { a with cues := a.cues.filter fun c => !(l.map (·.id)).contains c.id } c.id)
        = { a with cues := a.cues.filter fun y => !((l ++ [c]).map (·.id)).contains y.id } := by
      simp only [AdTrack.remove, List.filter_filter]
      congr 1
      apply List.filter_congr
      intro y _
      rw [Bool.eq_iff_iff]
      simp [and_comm]
    rw [hf]
    let X : Track := { x with body := .ad { a with cues := a.cues.filter fun c => !(l.map (·.id)).contains c.id } }
    let X' : Track := { x with body := .ad { a with cues := a.cues.filter fun y => !((l ++ [c]).map (·.id)).contains y.id } }
    let R' : Programme := (l.foldl (fun r c => r.oneMissed t c.id code o) r).oneMissed t c.id code o
    let K := s.clips.filter fun k => !(decide (k.prog = p) && decide (k.id ∈ l.map (·.clip)) && !(s.setTrack t (some X)).references p k.id)
    let s₂ := (s.setTrack t (some X')).setProg p (some R')
    have e : (s₁.setTrack t (some X')).setProg p (some R') = { s₂ with clips := K } := by
      show ({ ((((s.setTrack t (some X)).setProg p _).setTrack t (some X')).setProg p (some R')) with clips := K } : State) = _
      rw [State.setTrack_setProg, State.setTrack_setTrack, State.setProg_setProg]
    show State.clipFreed ((s₁.setTrack t (some X')).setProg p (some R')) p c.clip = _
    rw [e]
    have hR : (l ++ [c]).foldl (fun r c => r.oneMissed t c.id code o) r = R' := by simp [R']
    simp only [State.allMissed, hR]
    unfold State.clipFreed
    show ({ s₂ with clips := if s₂.references p c.clip = true then K else K.filter _ } : State)
      = { s₂ with clips := s.clips.filter fun k => !(decide (k.prog = p) && decide (k.id ∈ (l ++ [c]).map (·.clip)) && !s₂.references p k.id) }
    congr 1
    have hrefs : ∀ id, (s₂.references p id = true → (s.setTrack t (some X)).references p id = true) ∧
        (id ≠ c.clip → s₂.references p id = (s.setTrack t (some X)).references p id) := by
      intro id
      obtain ⟨o', ho⟩ := s.references_setTrack p t x id
      have h1 := ho { a with cues := a.cues.filter fun c => !(l.map (·.id)).contains c.id }
      have h2 : s₂.references p id = _ := ho { a with cues := a.cues.filter fun y => !((l ++ [c]).map (·.id)).contains y.id }
      rw [show (s.setTrack t (some X)).references p id = _ from h1, h2]
      constructor
      · simp only [Bool.or_eq_true, Bool.and_eq_true, AdTrack.clipIds, List.contains_iff_mem, List.mem_append, List.mem_map,
          List.mem_filter]
        rintro (h | ⟨h, ⟨y, ⟨hy, hy'⟩, h'⟩ | h'⟩)
        · exact .inl h
        · exact .inr ⟨h, .inl ⟨y, ⟨hy, by simp at hy' ⊢; exact fun z hz => hy'.1 z hz⟩, h'⟩⟩
        · exact .inr ⟨h, .inr h'⟩
      · intro hid
        congr 2
        rw [Bool.eq_iff_iff]
        simp only [AdTrack.clipIds, List.contains_iff_mem, List.mem_append, List.mem_map, List.mem_filter]
        constructor
        · rintro (⟨y, ⟨hy, hy'⟩, h'⟩ | h')
          · exact .inl ⟨y, ⟨hy, by simp at hy' ⊢; exact fun z hz => hy'.1 z hz⟩, h'⟩
          · exact .inr h'
        · rintro (⟨y, ⟨hy, hy'⟩, h'⟩ | h')
          · refine .inl ⟨y, ⟨hy, ?_⟩, h'⟩
            have : y.id ≠ c.id := by
              intro h
              have := List.inj_on_of_nodup_map hn hy hc h
              subst this
              exact hid h'.symm
            simp at hy' ⊢
            exact ⟨fun z hz => hy' z hz, this⟩
          · exact .inr h'
    split
    · rename_i h
      apply List.filter_congr
      intro k _
      by_cases hk : k.id = c.clip
      · rw [hk, h, (hrefs c.clip).1 h]; simp
      · rw [(hrefs k.id).2 hk]; simp [hk]
    · rename_i h
      simp only [K, List.filter_filter]
      apply List.filter_congr
      intro k _
      by_cases hk : k.id = c.clip
      · rw [hk]; simp only [Bool.not_eq_true] at h; rw [h]
        by_cases hp' : k.prog = p <;> simp [hp']
      · rw [(hrefs k.id).2 hk]; simp [hk]

/-- The overdue part of a step that is reached: every cue behind the head whose latest tick is reached is gone (R105). -/
theorem ReachesStep.missOverdue {s : State} {w : AudioWork} {t : TrackSlot} {rest : List TrackSlot} {r : Programme} {x : Track} {a : AdTrack}
    (h : ReachesStep s w t rest r x a) {hd : AdCue} {behind : List AdCue} (hc : a.cues = hd :: behind) (hn : (a.cues.map (·.id)).Nodup)
    (code : BitVec 32) :
    let late := behind.filter fun c => decide (c.latest ≤ w.tick)
    ({ s with audio := leftToStep w rest } : State).missOverdue w.copy.prog t code w.tick
        = { s.allMissed w.copy.prog t r x a .late code late with audio := leftToStep w rest } ∧
    a.cues.filter (fun c => !(late.map (·.id)).contains c.id) = hd :: behind.filter fun c => decide (w.tick < c.latest) := by
  intro late
  have hsub : ∀ c ∈ late, c ∈ behind := fun c hm => (List.mem_filter.mp hm).1
  have hn' : hd.id ∉ behind.map (·.id) ∧ (behind.map (·.id)).Nodup := by
    rw [hc] at hn; exact List.nodup_cons.mp hn
  constructor
  · have ha : ({ s with audio := leftToStep w rest } : State).ad? t = some a := State.ad?_of_ad h.2.2.2.2.2.2.1 h.2.2.2.2.2.2.2
    have ho : a.overdue w.tick = late := by rw [AdTrack.overdue, hc]; rfl
    rw [State.missOverdue, ha]
    simp only [ho]
    rw [State.foldl_cueMissed (s := { s with audio := leftToStep w rest }) h.2.2.2.2.1 h.2.2.2.2.2.2.1 h.2.2.2.2.2.2.2 .late code hn late
      (fun c hm => hc ▸ List.mem_cons_of_mem _ (hsub c hm)) (hn'.2.sublist ((List.filter_sublist).map _))]
    rfl
  · rw [hc, List.filter_cons, if_pos]
    · congr 1
      apply List.filter_congr
      intro c hm
      by_cases hl : c.latest ≤ w.tick
      · have : c.id ∈ late.map (·.id) := List.mem_map.mpr ⟨c, List.mem_filter.mpr ⟨hm, by simpa using hl⟩, rfl⟩
        simp only [List.contains_iff_mem.mpr this, Bool.not_true]
        exact (decide_eq_false (by omega)).symm
      · have : ¬ (late.map (·.id)).contains c.id = true := by
          rw [List.contains_iff_mem]
          rintro hm'
          obtain ⟨y, hy, hy'⟩ := List.mem_map.mp hm'
          have := List.inj_on_of_nodup_map hn'.2 (hsub y hy) hm hy'
          subst this
          exact hl (by simpa using (List.mem_filter.mp hy).2)
        simp only [Bool.not_eq_true] at this
        rw [this, decide_eq_true (by omega)]; rfl
    · have : ¬ (late.map (·.id)).contains hd.id = true := by
        rw [List.contains_iff_mem]
        rintro hm'
        obtain ⟨y, hy, hy'⟩ := List.mem_map.mp hm'
        exact hn'.1 (List.mem_map.mpr ⟨y, hsub y hy, hy'⟩)
      simpa using this

end Sys2Proof.Machine
end

