-- ==== Sys2Proof/WellFormed.lean ====
section
/-! DEFINITION. Which commands can be written at all: the shape of the lane bytes a framing command carries. -/

namespace Sys2Proof

/-- A command's operands have the shape its row gives them: a header is 9 bytes (R127), a hunt reads at least one byte,
and a body with its 4-byte check is 4 to 12,292 bytes (R127). The other commands carry typed operands or none. -/
def Instr.wf (i : Instr) : Bool :=
  match i with
  | .headerAccepted bytes => decide (1 ≤ bytes.length)
  | .headerFailure bytes => decide (bytes.length = 9)
  | .overrun bytes => decide (4 ≤ bytes.length) && decide (bytes.length ≤ Config.bodyLimit + 4)
  | .takenWhole bytes => decide (4 ≤ bytes.length) && decide (bytes.length ≤ Config.bodyLimit + 4)
  | .powerOn _ => true
  | .resetPin _ => true
  | .routing => true
  | .egressCredit => true
  | .egressCreditRestart => true
  | .grant => true
  | .parcelLeft _ => true
  | .loaderTake => true
  | .place => true
  | .withdraw => true
  | .narrationPage => true
  | .markTaken => true
  | .subsegPlaced => true
  | .audioTake => true
  | .adAudioPlaced => true
  | .eventStep => true
  | .identify => true
  | .openProgramme => true
  | .setProgramme => true
  | .closeProgramme => true
  | .resetProgramme => true
  | .openTrack => true
  | .closeTrack => true
  | .loadStyle => true
  | .concealSpan => true
  | .concealUntilResume => true
  | .fence => true
  | .fenceMarkerPlaced => true
  | .readProgramme => true
  | .readTrack => true
  | .readCounters => true
  | .setEgress => true
  | .unitReset => true
  | .unknownRequest => true
  | .requestDiscard => true
  | .resetProgrammeComplete _ => true
  | .closeProgrammeComplete _ => true
  | .closeTrackComplete _ => true
  | .noticeEmission => true
  | .unitResetReply => true
  | .cueRecordOtherOp => true

end Sys2Proof
end

