-- ==== Sys2Proof/Tests/Slice0.lean ====
section
/-! SUPPORT. Tests of the model: ill-formed commands, known answers, and for each statement with hypotheses a state and operands that
meet them (`witness_<Name>`). -/

open Sys2Proof Sys2Proof.Machine

namespace Sys2Proof.Tests

/-! ### A command whose lane bytes have the wrong shape is refused by the well-formedness check -/

theorem test_headerAccepted_without_bytes_is_ill_formed : (Instr.headerAccepted []).wf = false := by decide
theorem test_headerFailure_of_8_bytes_is_ill_formed : (Instr.headerFailure (List.replicate 8 0)).wf = false := by decide
theorem test_headerFailure_of_10_bytes_is_ill_formed : (Instr.headerFailure (List.replicate 10 0)).wf = false := by decide
theorem test_overrun_of_3_bytes_is_ill_formed : (Instr.overrun [0, 0, 0]).wf = false := by decide
theorem test_overrun_above_the_limit_is_ill_formed : (Instr.overrun (List.replicate 12293 0)).wf = false := by
  rw [Instr.wf, List.length_replicate]; decide
theorem test_takenWhole_of_3_bytes_is_ill_formed : (Instr.takenWhole [0, 0, 0]).wf = false := by decide
theorem test_takenWhole_above_the_limit_is_ill_formed : (Instr.takenWhole (List.replicate 12293 0)).wf = false := by
  rw [Instr.wf, List.length_replicate]; decide
theorem test_takenWhole_at_the_limit_is_well_formed : (Instr.takenWhole (List.replicate 12292 0)).wf = true := by
  rw [Instr.wf, List.length_replicate]; decide

/-! ### Known answers -/

/-- "123456789". -/
def digits : List Byte := [0x31, 0x32, 0x33, 0x34, 0x35, 0x36, 0x37, 0x38, 0x39]

theorem test_header_check_of_digits : crc16 digits = 0x29B1 := by decide +kernel
theorem test_body_check_of_digits : crc32 digits = 0xCBF43926 := by decide +kernel
theorem test_body_check_of_nothing : crc32 [] = 0 := by decide +kernel
theorem test_no_word_spells_a_command : decodeTableWord 16 0 = none := by decide

/-! ### Small states -/

/-- A programme fresh from opening: stream 40, one unit 90 ticks, origin 0, threshold 1,000. -/
def prog0 : Programme := freshProgramme 40 ⟨1000, 1, 0⟩ 1000 0 [0, 1]

def sub0 : SubTrack := ⟨.default, none, none, none, []⟩
def ad0 : AdTrack := ⟨32768, 8192, 2, 1, .idle, 32768, 32768, 32768, []⟩
def subRec (b : SubTrack) : Track := ⟨0, .active, 41, [0x65], .sub b⟩
def adRec (a : AdTrack) : Track := ⟨0, .active, 42, [0x65], .ad a⟩

/-- Programme 0 with SUB track 0 and AD track 1. -/
def stateOf (r : Programme) (b : SubTrack) (a : AdTrack) : State :=
  ((State.reset.setProg 0 (some r)).setTrack 0 (some (subRec b))).setTrack 1 (some (adRec a))

def base : State := stateOf prog0 sub0 ad0

def parcel0 : Parcel := ⟨0x06, 0, 40, [], 0, 0⟩

/-- A CONTROL request of programme slot 0. -/
def ask (name : Byte) (params : List Byte) : Request := ⟨7, name, params, 0, 40, 3⟩

/-- What a command answers, read through `f`; every command answers a next state. -/
def after (c : Instr) (s : State) (f : State → Bool) : Bool :=
  match exec c s with
  | .next t => f t
  | .fault _ => false
  | .refused _ => false

/-! ### The worked conversions, loads, cuts, sequences and arithmetic of the spec -/

theorem test_conversions_of_a_23_976_source :
    (⟨24000, 1001, 900000⟩ : Timebase).tick 1440 = some 6305400 ∧ (⟨24000, 1001, 900000⟩ : Timebase).tick 1441 = some 6309154 ∧
    (⟨24000, 1001, 900000⟩ : Timebase).tick 1512 = some 6575670 := by decide

/-- Lines of one character. -/
def lines (n : Nat) : List Byte := (List.replicate n [1, 0x41]).flatten

/-- A subtitle PLACE record. -/
def placeRecord (id a z n : Nat) : List Byte :=
  be 2 (20 + 2 * n) ++ [1, 1] ++ be 4 id ++ be 4 a ++ be 4 z ++ [0, 0, 0] ++ be 1 n ++ lines n

def withdrawRecord (id : Nat) : List Byte := be 2 8 ++ [2, 1] ++ be 4 id

def cue (id a z n : Nat) (emitted : Bool) : SubCue := ⟨id, a, z, 0, 0, false, List.replicate n [0x41], false, emitted⟩

/-- The track of the worked loads: cue 10 emitted, cue 11 not, the cut line at 540,000. -/
def loadsSub : SubTrack := { sub0 with cues := [cue 10 450000 630000 2 true, cue 11 720000 810000 1 false] }
def loadsProg : Programme := { prog0 with cutLine := 540000 }
def loads (rec : List Byte) : State :=
  { stateOf loadsProg loadsSub ad0 with loading := some (.cueload ⟨0, 0, 9000, [rec]⟩) }

def firstErrorOf (s : State) : Option (ResultCode × Option Nat) :=
  ((s.prog 0).bind (·.firstError)).map fun f => (f.code, f.item)
def idsOf (s : State) : List Nat := ((s.sub? 0).map fun b => b.cues.map (·.id)).getD []

theorem test_load_1_is_late : after .place (loads (placeRecord 12 5000 5500 1))
    (fun t => idsOf t == [10, 11] && firstErrorOf t == some (.late, some 12)) = true := by decide +kernel
theorem test_load_2_is_trimmed_to_the_cut_line : after .place (loads (placeRecord 13 5800 6400 2))
    (fun t => idsOf t == [10, 13, 11] && firstErrorOf t == none && t.linesInUse == 5 && t.cuesInUse == 3
      && (t.sub? 0).any fun b => b.cues.any fun c => c.id == 13 && c.start == 540000 && c.stop == 576000 && c.trimmed) = true := by
  decide +kernel
theorem test_load_3_is_late : after .place (loads (placeRecord 10 5000 7200 2))
    (fun t => idsOf t == [10, 11] && firstErrorOf t == some (.late, some 10)) = true := by decide +kernel
theorem test_load_4_replaces : after .place (loads (placeRecord 11 7500 8500 2))
    (fun t => idsOf t == [10, 11] && t.linesInUse == 4
      && (t.sub? 0).any fun b => b.cues.any fun c => c.id == 11 && c.start == 675000 && c.stop == 765000) = true := by decide +kernel
theorem test_trimmed_replacement_counts_as_accepted_and_as_trimmed : after .place (loads (placeRecord 11 5800 6400 2))
    (fun t => idsOf t == [10, 11] && (t.prog 0).any fun r => r.counters.cuesAccepted == 1 && r.counters.cuesTrimmed == 1) = true := by
  decide +kernel
theorem test_load_5_is_absent : after .withdraw (loads (withdrawRecord 14))
    (fun t => idsOf t == [10, 11] && firstErrorOf t == some (.absent, some 14)) = true := by decide +kernel
theorem test_load_6_is_removed : after .withdraw (loads (withdrawRecord 11))
    (fun t => idsOf t == [10] && t.loading == none) = true := by decide +kernel

/-- The track of the worked cuts before mark 1. -/
def cutsSub : SubTrack := { sub0 with cues := [cue 100 500000 700000 1 true, { cue 101 760000 1800000 1 false with style := 1 },
  { cue 102 1100000 1170000 1 false with style := 6 }] }
def cutsState (b : SubTrack) (line k e : Nat) : State :=
  { stateOf { prog0 with cutLine := line, lastSegment := some k } b ad0 with markQ := [⟨k + 1, line, e, 0, 40, 5⟩] }

/-- The entries of the first SUBSEG of the first cut buffer: id, relative times, CONT-IN, CONT-OUT, style defaulted. -/
def entriesOf (s : State) : List (Nat × Nat × Nat × Bool × Bool × Bool) :=
  ((s.cuts.head?.bind (·.subsegs.head?)).map fun u =>
    u.entries.map fun e => (e.id, e.relStart, e.relEnd, e.flags.contIn, e.flags.contOut, e.flags.styleDefaulted)).getD []

theorem test_cut_1_of_the_worked_cuts : after .markTaken (cutsState cutsSub 540000 0 1080000)
    (fun t => entriesOf t == [(100, 0, 160000, true, false, false), (101, 220000, 540000, false, true, false)]
      && idsOf t == [101, 102] && (t.prog 0).any (·.cutLine == 1080000)) = true := by decide +kernel
theorem test_cut_2_of_the_worked_cuts :
    after .markTaken (cutsState { cutsSub with cues := cutsSub.cues.tail } 1080000 1 1620000)
      (fun t => entriesOf t == [(101, 0, 540000, true, true, false), (102, 20000, 90000, false, false, true)]
        && idsOf t == [101]) = true := by decide +kernel

/-- A parcel's samples with the given peaks of its three thirds. -/
def peaks (a b c : BitVec 16) : List Sample :=
  (a :: List.replicate 319 0) ++ (b :: List.replicate 319 0) ++ (c :: List.replicate 319 0)

theorem test_quiet_thirds : quietThirds 1000 (peaks 300 420 999) = 3 ∧ quietThirds 1000 (peaks 420 1500 800) = 2 ∧
    quietThirds 1000 (peaks 1000 1000 1001) = 2 ∧ quietThirds 1000 (peaks 0x8000 12 900) = 2 := by decide +kernel

theorem test_mixing_at_the_limits :
    clampSample (mixSample 20000 (BitVec.ofInt 16 (-30000)) 8192 32768) = BitVec.ofInt 16 (-25000) ∧
    mixSample 30000 10000 32768 32768 = 40000 ∧ clampSample 40000 = 32767 ∧ outOfRange 40000 = true ∧
    mixSample 0x8000 0 32768 0 = -32768 ∧ outOfRange (-32768) = false ∧
    mixSample 0x8000 0x8000 32768 32768 = -65536 ∧ clampSample (-65536) = 0x8000 := by decide +kernel

theorem test_attack_ramp : rampGain 32768 8192 2 0 = 32743 ∧ rampGain 32768 8192 2 479 = 20480 ∧
    rampGain 32768 8192 2 480 = 20455 ∧ rampGain 32768 8192 2 959 = 8192 := by decide +kernel

/-- The arbiter of the worked grants under ROTATE. -/
def rotating (ctl mix seg thru credit : Nat) (last : Requester) : State :=
  { State.reset with egress := { State.reset.egress with
      thru := List.replicate thru parcel0
      seg := List.replicate seg parcel0
      mix := List.replicate mix parcel0
      ctl := List.replicate ctl (.filled parcel0)
      credit := credit
      settings := ⟨.rotate, ⟨.single, .batch 4, .batch 2, .batch 8⟩⟩
      last := last } }

theorem test_grant_1_is_ctl : after .grant (rotating 1 6 3 10 12 .thru)
    (fun t => t.egress.grant == some ⟨.ctl, 1, 0⟩ && t.egress.credit == 11) = true := by decide +kernel
theorem test_grant_5_passes_the_empty_ctl : after .grant (rotating 0 2 1 5 3 .thru)
    (fun t => t.egress.grant == some ⟨.mix, 4, 0⟩ && t.egress.credit == 2) = true := by decide +kernel
theorem test_grant_ends_with_the_credit :
    after (.parcelLeft 0) { rotating 0 2 1 6 0 .thru with
        egress := { (rotating 0 2 1 6 0 .thru).egress with grant := some ⟨.thru, 8, 4⟩ } }
      (fun t => t.egress.grant == none && t.egress.thru.length == 5 && t.lanes.left.length == 1) = true := by decide +kernel

/-- The worked programme's first SUBSEG: one entry of 43 bytes, a body of 71, address byte 0x32. -/
theorem test_subseg_of_the_worked_programme :
    let u : SubSeg := ⟨0, 41, [0x65, 0x6E], 0, 0, 180000, false, false, false,
      [⟨1, 36000, 180000, 0, ⟨.centre, .bottom, 0, .box, .normal, false⟩, ⟨false, true, false, false, false, false⟩,
        [List.replicate 21 0x41]⟩]⟩
    (subsegParcel 3 2 u).body.length = 71 ∧ (subsegParcel 3 2 u).bytes.length = 84 ∧ (subsegParcel 3 2 u).addr = 0x32 := by
  decide +kernel

/-- The hunt after a damaged header: a candidate that fails counts nothing; the accepted header ends the hunt with a credit restart. -/
def goodHeader : List Byte := [0xB7, 0x4E, 0x02, 0, 40, 0, 20] ++ be 2 (crc16 [0xB7, 0x4E, 0x02, 0, 40, 0, 20]).toNat

def entry0 : IngressEntry := ⟨parcel0, 0, .foreign, false⟩

def hunting (b : Bool) (n : Nat) : State :=
  { State.reset with rx := { State.reset.rx with framing := .hunt b [0x4E, 1, 2], buffer := List.replicate n entry0 } }

theorem test_resync : after (.headerAccepted ([0xB7, 0x4E, 9, 9] ++ goodHeader)) (hunting true 3)
    (fun t => t.counters.resyncs == 1 && t.rx.credit == 28 && t.lanes.returned == [.restart 32, .restart 28]) = true := by
  decide +kernel

/-! ### For each statement with hypotheses: states and operands that meet them, clause by clause -/

theorem forallProgs {s : State} {P : ProgSlot → Programme → Prop} (h : ∀ p, ∀ r ∈ s.prog p, P p r) :
    ∀ p r, s.prog p = some r → P p r := fun p r hr => h p r hr

theorem forallTracks {s : State} {P : TrackSlot → Track → Prop} (h : ∀ t, ∀ x ∈ s.track t, P t x) :
    ∀ t x, s.track t = some x → P t x := fun t x hx => h t x hx

theorem witness_StepRunsFrontCommandOrIdles : State.reset.pending = [] := rfl

def sending : State :=
  { State.reset with egress := { State.reset.egress with thru := [parcel0], grant := some ⟨.thru, 1, 0⟩ } }
def resetReplyHead : State :=
  { State.reset with egress := { State.reset.egress with ctl := [.unitResetReply parcel0], grant := some ⟨.ctl, 1, 0⟩ } }

theorem witness_EveryResetSetsEveryBlockAsAtPowerOn :
    State.reset.egress.sending? = none ∧ sending.egress.sending? = some parcel0 ∧
    (resetReplyHead.egress.grant = some ⟨.ctl, 1, 0⟩ ∧ resetReplyHead.egress.ctl = [.unitResetReply parcel0]) := by
  decide +kernel

/-- The receiver in a framing state with `n` places filled. -/
def framed (f : Framing) (n : Nat) : State :=
  { State.reset with rx := { State.reset.rx with framing := f, buffer := List.replicate n entry0 } }

theorem witness_AcceptedHeaderReservesAPlaceAndUsesACredit :
    ((framed .header 31).rx.closed = false ∧ (framed .header 31).rx.framing = .header ∧ headerAccepts goodHeader = true) ∧
    ((framed .header 32).rx.closed = false ∧ (framed .header 32).rx.framing = .header) ∧
    ((hunting false 32).rx.framing = .hunt false [0x4E, 1, 2] ∧ huntFor ([0x4E, 1, 2] ++ goodHeader) = some (goodHeader, [])) := by
  decide +kernel

theorem witness_HuntAfterAFailureEndsWithACreditRestart :
    (hunting true 31).rx.closed = false ∧ (hunting true 32).rx.closed = false ∧
    (hunting true 31).rx.framing = .hunt true [0x4E, 1, 2] ∧ (hunting true 32).rx.framing = .hunt true [0x4E, 1, 2] ∧
    huntFor ([0x4E, 1, 2] ++ goodHeader) = some (goodHeader, []) := by decide +kernel

def header0 : Header := ⟨0x06, 0, 40, 0, 0⟩

theorem witness_HeaderFailureAndOverrunAreCounted :
    ((framed .header 0).rx.closed = false ∧ (framed .header 0).rx.framing = .header ∧
      headerAccepts (List.replicate 9 0) = false) ∧
    ((framed (.body header0 false) 32).rx.closed = false ∧
      (framed (.body header0 false) 32).rx.framing = .body header0 false ∧ [0, 0, 0, (0 : Byte)].length = header0.length + 4) := by
  decide +kernel

theorem witness_TakenWholeFillsTheReservedPlace :
    (framed (.body header0 true) 31).rx.closed = false ∧ (framed (.body header0 true) 31).rx.framing = .body header0 true ∧
    [0, 0, 0, (0 : Byte)].length = header0.length + 4 := by decide +kernel

/-- One entry of a class at the head of the ingress buffer, with a programme in slot 0. -/
def headed (r : Programme) (c : ParcelClass) (corrupt : Bool) : State :=
  { stateOf r sub0 ad0 with rx := { State.reset.rx with buffer := [⟨parcel0, 9, c, corrupt⟩] } }

def thruOf (s : State) (n : Nat) : State := { s with egress := { s.egress with thru := List.replicate n parcel0 } }
def copy0 : AudioCopy := ⟨List.replicate 1928 0, 0, 40, 9, false⟩
def mark0 : Mark := ⟨1, 0, 100, 0, 40, 9⟩
def closingProg : Programme := { prog0 with state := .closing, deferred := some ⟨.closeProgramme, 1, 40⟩ }

/-- A state with its receiver CLOSED, as a UNIT-RESET leaves it. -/
def closed (s : State) : State := { s with rx := { s.rx with closed := true } }

theorem witness_RoutingPassesParcelsAndCopiesThem :
    (let s := thruOf (headed prog0 .foreign false) 31;
      s.rx.buffer = ⟨parcel0, 9, .foreign, false⟩ :: [] ∧ s.rx.closed = false ∧ s.egress.thru.length < 32) ∧
    (let s := { thruOf (headed prog0 .audio true) 31 with audioQ := List.replicate 7 copy0 };
      s.rx.buffer = ⟨parcel0, 9, .audio, true⟩ :: [] ∧ s.rx.closed = false ∧ s.egress.thru.length < 32 ∧
      s.progOfStream parcel0.stream = some 0 ∧ s.prog 0 = some prog0 ∧ prog0.state ≠ .closing ∧ s.audioQ.length < 8) ∧
    (let s := headed closingProg .audio false;
      s.progOfStream parcel0.stream = some 0 ∧ s.prog 0 = some closingProg ∧ closingProg.state = .closing) ∧
    (let s := { thruOf (headed prog0 .mark false) 31 with markQ := List.replicate 7 mark0 };
      s.rx.buffer = ⟨parcel0, 9, .mark, false⟩ :: [] ∧ s.rx.closed = false ∧ s.egress.thru.length < 32 ∧
      s.progOfStream parcel0.stream = some 0 ∧ s.prog 0 = some prog0 ∧ s.markQ.length < 8) ∧
    (let s := headed closingProg .mark false;
      s.progOfStream parcel0.stream = some 0 ∧ s.prog 0 = some closingProg) ∧
    ((headed { prog0 with stream := 39 } .mark false).progOfStream parcel0.stream = none ∧
      (headed { prog0 with stream := 39 } .audio false).progOfStream parcel0.stream = none) ∧
    (let s := headed prog0 .mark true;
      s.rx.buffer = ⟨parcel0, 9, .mark, true⟩ :: [] ∧ s.egress.thru.length < 32 ∧ s.progOfStream parcel0.stream = some 0 ∧
      s.prog 0 = some prog0) ∧
    (let s := closed (headed prog0 .audio false);
      s.rx.closed = true ∧ s.rx.buffer = ⟨parcel0, 9, .audio, false⟩ :: [] ∧ s.egress.thru.length < 32 ∧ s.audioQ.length < 8 ∧
      after .routing s (fun t => t.lanes.returned == s.lanes.returned && t.audioQ.length == 1 && t.egress.thru.length == 1) = true) :=
  by decide +kernel

theorem witness_AddressedParcelsGoInwardOrAreDropped :
    (let s := { headed prog0 .posted false with loaderQ := List.replicate 31 (.fence 0 1) };
      s.rx.buffer = ⟨parcel0, 9, .posted, false⟩ :: [] ∧ s.rx.closed = false ∧ s.loaderQ.length < 32) ∧
    (let s := { headed prog0 .request false with requestQ := List.replicate 3 (ask 1 []) };
      s.rx.buffer = ⟨parcel0, 9, .request, false⟩ :: [] ∧ s.rx.closed = false ∧ s.requestQ.length < 4) ∧
    (headed prog0 .request true).rx.buffer = ⟨parcel0, 9, .request, true⟩ :: [] ∧
    (let s := { headed prog0 .posted true with progs := State.reset.progs };
      s.rx.buffer = ⟨parcel0, 9, .posted, true⟩ :: [] ∧ s.rx.closed = false ∧ s.prog parcel0.slot = none) ∧
    (headed prog0 .posted true).prog parcel0.slot = some prog0 ∧
    (let s := closed (headed prog0 .posted false);
      s.rx.closed = true ∧ s.rx.buffer = ⟨parcel0, 9, .posted, false⟩ :: [] ∧ s.loaderQ.length < 32 ∧
      after .routing s (fun t => t.lanes.returned == s.lanes.returned && t.loaderQ.length == 1) = true) := by decide +kernel

theorem witness_RoutingWaitsForRoom :
    (let s := thruOf (headed prog0 .foreign false) 32;
      s.rx.buffer = ⟨parcel0, 9, .foreign, false⟩ :: [] ∧ 32 ≤ s.egress.thru.length) ∧
    (let s := { headed prog0 .audio false with audioQ := List.replicate 8 copy0 };
      s.rx.buffer = ⟨parcel0, 9, .audio, false⟩ :: [] ∧ 8 ≤ s.audioQ.length ∧ s.progOfStream parcel0.stream = some 0 ∧
      s.prog 0 = some prog0 ∧ prog0.state ≠ .closing) ∧
    (let s := { headed prog0 .mark false with markQ := List.replicate 8 mark0 };
      s.rx.buffer = ⟨parcel0, 9, .mark, false⟩ :: [] ∧ 8 ≤ s.markQ.length ∧ s.progOfStream parcel0.stream = some 0 ∧
      s.prog 0 = some prog0) ∧
    (let s := { headed prog0 .posted false with loaderQ := List.replicate 32 (.fence 0 1) };
      s.rx.buffer = ⟨parcel0, 9, .posted, false⟩ :: [] ∧ 32 ≤ s.loaderQ.length) ∧
    (let s := { headed prog0 .request false with requestQ := List.replicate 4 (ask 1 []) };
      s.rx.buffer = ⟨parcel0, 9, .request, false⟩ :: [] ∧ 4 ≤ s.requestQ.length) := by decide +kernel

/-- INTEGRITY is code 5. -/
theorem witness_PostedFailureActsByState :
    let f : Failure := ⟨.integrity, .segmark, none, none, 0⟩
    (⟨.halted, .cueload, none, none, 0⟩ : Failure).code = .halted ∧ f.code ≠ .halted ∧ closingProg.state = .closing ∧
    ({ prog0 with state := .halted } : Programme).state = .halted ∧
    (prog0.state = .active ∧ prog0.escalation.getLsbD f.code.number = false) ∧
    ({ prog0 with escalation := 0x20 } : Programme).escalation.getLsbD f.code.number = true := by decide

def credited (n : Nat) : State := { State.reset with egress := { State.reset.egress with credit := n, thru := [parcel0] } }

theorem witness_EgressCreditCountsParcelsAllowed :
    (credited 254).egress.credit < 255 ∧ (credited 255).egress.credit = 255 ∧ sending.egress.grant ≠ none ∧
    (credited 0).egress.credit = 0 ∧ (∀ r ∈ [Requester.ctl, .mix, .seg, .thru], State.reset.egress.ready r = false) ∧
    after .grant (credited 1) (fun t => t.egress.grant != (credited 1).egress.grant) = true ∧
    sending.egress.sending? ≠ none ∧ after (.parcelLeft 0) sending (fun t => t.egress.grant == none) = true ∧
    after (.parcelLeft 0) (rotating 0 0 0 2 1 .thru) (fun t => t == rotating 0 0 0 2 1 .thru) = true ∧
    after (.parcelLeft 0) { rotating 0 0 0 2 1 .thru with
        egress := { (rotating 0 0 0 2 1 .thru).egress with grant := some ⟨.thru, 8, 0⟩ } }
      (fun t => t.egress.grant != none) = true ∧
    (resetReplyHead.egress.grant = some ⟨.ctl, 1, 0⟩ ∧ resetReplyHead.egress.ctl = [.unitResetReply parcel0]) := by
  decide +kernel

theorem witness_GrantUnderRotateSearchesTheCycle :
    let e := (rotating 0 2 1 5 1 .thru).egress
    e.grant = none ∧ 0 < e.credit ∧ (e.pendingSettings.getD e.settings).policy = .rotate ∧
    [Requester.ctl, .mix, .seg, .thru] = [.ctl] ++ .mix :: [.seg, .thru] ∧ (∀ x ∈ [Requester.ctl], e.ready x = false) ∧
    e.ready .mix = true := by decide +kernel

/-- Under FIXED with MIX and THRU ready; THRU's count is `n`. -/
def guarded (n : Nat) : Egress :=
  { (rotating 0 1 0 1 1 .thru).egress with settings := ⟨.fixed, ⟨.single, .single, .single, .single⟩⟩, passOver := ⟨0, 0, 0, n⟩ }

theorem witness_GrantUnderFixedFollowsPriorityAndGuard :
    ((guarded 64).grant = none ∧ 0 < (guarded 64).credit ∧ (guarded 64).settings.policy = .fixed ∧
      [Requester.ctl, .mix, .seg, .thru] = [.ctl, .mix, .seg] ++ .thru :: [] ∧ (guarded 64).ready .thru = true ∧
      (guarded 64).passOver.get .thru = 64 ∧
      ∀ x ∈ [Requester.ctl, .mix, .seg], ¬ ((guarded 64).ready x = true ∧ (guarded 64).passOver.get x = 64)) ∧
    ([Requester.ctl, .mix, .seg, .thru] = [.ctl] ++ .mix :: [.seg, .thru] ∧ (guarded 63).ready .mix = true ∧
      (∀ x ∈ [Requester.ctl, .mix, .seg, .thru], ¬ ((guarded 63).ready x = true ∧ (guarded 63).passOver.get x = 64)) ∧
      ∀ x ∈ [Requester.ctl], (guarded 63).ready x = false) := by decide +kernel

theorem witness_ParcelLeftFreesItsPlaceAndTheGrantGoesOnOrEnds :
    sending.egress.grant = some ⟨.thru, 1, 0⟩ ∧ sending.egress.thru = parcel0 :: [] ∧
    (rotating 1 1 1 1 1 .thru).egress.ctl = .filled parcel0 :: [] ∧ (rotating 1 1 1 1 1 .thru).egress.mix = parcel0 :: [] ∧
    (rotating 1 1 1 1 1 .thru).egress.seg = parcel0 :: [] := by decide +kernel

/-! The cue loader -/

/-- A CUELOAD body with `n` withdraw records. -/
def cueloadBody (n : Nat) : List Byte := [0] ++ be 1 n ++ (List.replicate n (withdrawRecord 14)).flatten
def cueload (n : Nat) : Parcel := ⟨0x03, 0, 40, cueloadBody n, 0, 0⟩

theorem witness_LoaderTakesAnEntryByTheStateOfItsProgramme :
    (let s := { State.reset with loaderQ := [.narration (cueload 1) 9] };
      s.loading = none ∧ s.loaderQ = .narration (cueload 1) 9 :: [] ∧ s.prog (cueload 1).slot = none) ∧
    (let s := { base with loaderQ := [.cueload (cueload 1) 9] };
      s.loading = none ∧ s.loaderQ = .cueload (cueload 1) 9 :: [] ∧ s.prog (cueload 1).slot = some prog0 ∧ prog0.state = .active) ∧
    ((stateOf { prog0 with state := .halted } sub0 ad0).prog 0 = some { prog0 with state := .halted } ∧
      (stateOf closingProg sub0 ad0).prog 0 = some closingProg ∧ closingProg.state = .closing) ∧
    ((cueloadRecords (cueload 1).body).map (·.length) = some 1 ∧ (cueloadRecords (cueload 16).body).map (·.length) = some 16) ∧
    ((cueloadRecords (cueload 0).body).map (·.length) = some 0 ∧ (cueloadRecords (cueload 17).body).map (·.length) = some 17) := by
  decide +kernel

def fenced : Programme := { prog0 with deferred := some ⟨.fence, 7, 40⟩ }

theorem witness_FenceMarkerReportsAndClears :
    let s : State := { stateOf fenced sub0 ad0 with
      loaderQ := [.fence 0 7]
      egress := { State.reset.egress with ctl := [.filled parcel0, .reserved 0] } }
    s.loading = none ∧ s.loaderQ = .fence 0 7 :: [] ∧ s.prog 0 = some fenced ∧ fenced.deferred = some ⟨.fence, 7, 40⟩ ∧
    Fills s.egress.ctl [.filled parcel0, .filled parcel0] (.reserved 0) (.filled parcel0) :=
  ⟨rfl, rfl, rfl, rfl, [.filled parcel0], [], rfl, by decide, rfl⟩

/-- A record of programme `r` with a SUB track 0 of fields `b`. -/
def loadsAs (r : Programme) (b : SubTrack) (rec : List Byte) : State :=
  { stateOf r b ad0 with loading := some (.cueload ⟨0, 0, 9000, [rec]⟩) }

theorem at_loadsAs (r : Programme) (b : SubTrack) (rec : List Byte) (h : r.state ≠ .halted) :
    AtRecord (loadsAs r b rec) ⟨0, 0, 9000, [rec]⟩ rec [] r := ⟨rfl, rfl, rfl, h⟩

theorem fits_loadsAs (r : Programme) (b : SubTrack) (rec : List Byte) (hk : recordKind rec = 1) (hid : recordId rec ≠ 0) :
    RecordFits (loadsAs r b rec) ⟨0, 0, 9000, [rec]⟩ rec 0 (subRec b) := ⟨rfl, rfl, rfl, (by intro h; cases h), hk, hid⟩

theorem at_loads (rec : List Byte) : AtRecord (loads rec) ⟨0, 0, 9000, [rec]⟩ rec [] loadsProg := at_loadsAs _ _ _ (by decide)

theorem fits_loads (rec : List Byte) (hk : recordKind rec = 1) (hid : recordId rec ≠ 0) :
    RecordFits (loads rec) ⟨0, 0, 9000, [rec]⟩ rec 0 (subRec loadsSub) :=
  ⟨rfl, rfl, rfl, by decide, hk, hid⟩

/-- A track CONCEALING in a window. -/
def concealingRec (w : Window) : Track :=
  ⟨0, .concealing, 41, [0x65], .sub { loadsSub with window := some w }⟩
def conceals (w : Window) (rec : List Byte) : State := (loads rec).setTrack 0 (some (concealingRec w))

theorem at_conceals (w : Window) (rec : List Byte) : AtRecord (conceals w rec) ⟨0, 0, 9000, [rec]⟩ rec [] loadsProg :=
  ⟨rfl, rfl, rfl, by decide⟩

theorem fits_conceals (w : Window) (rec : List Byte) (hk : recordKind rec = 1) (hid : recordId rec ≠ 0) :
    RecordFits (conceals w rec) ⟨0, 0, 9000, [rec]⟩ rec 0 (concealingRec w) :=
  ⟨rfl, rfl, rfl, (by intro h; cases h), hk, hid⟩

/-- A subtitle PLACE record of cue 12 with its region, style and line count, and its lines. -/
def fieldsRecord (region style n : Nat) (ls : List Byte) : List Byte :=
  be 2 (20 + ls.length) ++ [1, 1] ++ be 4 12 ++ be 4 6000 ++ be 4 6400 ++ be 1 region ++ be 1 style ++ [1] ++ be 1 n ++ ls

theorem witness_PlaceInsertsASubtitleCue :
    (1 ≤ prog0.timebase.n ∧ prog0.timebase.tick 5800 = some 522000 ∧ prog0.timebase.tick 6400 = some 576000) ∧
    (let bytes := fieldsRecord 15 31 4 (96 :: List.replicate 96 0x41 ++ lines 3);
      20 ≤ bytes.length ∧ linesOf (byteAt bytes 19).toNat (bytes.drop 20) = some (List.replicate 96 0x41 :: List.replicate 3 [0x41]) ∧
      (byteAt bytes 16).toNat = 15 ∧ (byteAt bytes 17).toNat = 31 ∧ (byteAt bytes 19).toNat = 4) ∧
    (let bytes := placeRecord 13 5800 6400 2;
      AtRecord (loads bytes) ⟨0, 0, 9000, [bytes]⟩ bytes [] loadsProg ∧ RecordFits (loads bytes) ⟨0, 0, 9000, [bytes]⟩ bytes 0 (subRec loadsSub) ∧
      recordOp bytes = 1 ∧ subPlaceOf bytes = some ⟨13, 5800, 6400, 0, 0, false, [[0x41], [0x41]]⟩ ∧
      (subRec loadsSub).Admits loadsSub (max 522000 540000) 576000 576000 ∧ (∀ y ∈ loadsSub.cues, y.id = 13 → y.emitted = false) ∧
      (loads bytes).RoomFor 2 2 none) ∧
    ((∀ y ∈ loadsSub.cues, y.id = 11 → y.emitted = false) ∧ (loads (placeRecord 11 7500 8500 2)).RoomFor 2 2 (some 1)) ∧
    (let bytes := placeRecord 13 5800 6400 2;
      ∀ w ∈ [(⟨540001, some 600000, .span⟩ : Window), ⟨500000, some 540000, .span⟩, ⟨540001, some 540001, .untilResume⟩],
        AtRecord (conceals w bytes) ⟨0, 0, 9000, [bytes]⟩ bytes [] loadsProg ∧
        RecordFits (conceals w bytes) ⟨0, 0, 9000, [bytes]⟩ bytes 0 (concealingRec w)) ∧
    ((concealingRec ⟨540001, some 600000, .span⟩).Admits { loadsSub with window := some ⟨540001, some 600000, .span⟩ } 540000 576000
        540001 ∧
      (concealingRec ⟨500000, some 540000, .span⟩).Admits { loadsSub with window := some ⟨500000, some 540000, .span⟩ } 540000 576000
        576000 ∧
      (concealingRec ⟨540001, some 540001, .untilResume⟩).Admits { loadsSub with window := some ⟨540001, some 540001, .untilResume⟩ }
        540000 576000 540001) ∧
    (max 522000 loadsProg.cutLine < 540001 ∧ loadsProg.cutLine < 540001) :=
  ⟨by decide +kernel, by decide +kernel,
    ⟨at_loads _, fits_loads _ (by decide +kernel) (by decide +kernel), by decide +kernel, by decide +kernel, .inl ⟨rfl, rfl⟩,
      by decide +kernel, by unfold State.RoomFor; decide +kernel⟩,
    ⟨by decide +kernel, by unfold State.RoomFor; decide +kernel⟩,
    fun w _ => ⟨at_conceals _ _, fits_conceals _ _ (by decide +kernel) (by decide +kernel)⟩,
    ⟨.inr ⟨rfl, 540001, some 600000, .span, rfl, .inl ⟨by decide, rfl⟩⟩,
      .inr ⟨rfl, 500000, some 540000, .span, rfl, .inr ⟨by decide, rfl, .inr ⟨540000, rfl, by decide⟩⟩⟩,
      .inr ⟨rfl, 540001, some 540001, .untilResume, rfl, .inl ⟨by decide, rfl⟩⟩⟩,
    by decide⟩

/-- A description PLACE record of cue 9 with hold 3 and clip 700. -/
def adRecord : List Byte := be 2 26 ++ [1, 2] ++ be 4 9 ++ be 4 50 ++ be 4 60 ++ be 4 700 ++ [3, 0] ++ be 2 0 ++ be 2 0

def adLoads (a : AdTrack) (rec : List Byte) : State :=
  { stateOf prog0 sub0 a with loading := some (.cueload ⟨0, 1, 9000, [rec]⟩) }

def current0 : CurrentCue := ⟨9, 700, false, none, none⟩
def adCue0 : AdCue := ⟨9, 4500, 5400, 700, 3, false, none, none, .pending⟩
def adWithdraw : List Byte := be 2 8 ++ [2, 2] ++ be 4 9

theorem fits_adLoads (a : AdTrack) (rec : List Byte) (hk : recordKind rec = 2) (hid : recordId rec ≠ 0) :
    RecordFits (adLoads a rec) ⟨0, 1, 9000, [rec]⟩ rec 1 (adRec a) :=
  ⟨rfl, rfl, rfl, (by intro h; cases h), hk, hid⟩

/-- What a record's subtitle PLACE converts to under `prog0`. -/
def ticksOf (rec : List Byte) : Option (Nat × Nat) :=
  (subPlaceOf rec).bind fun pl => (prog0.timebase.tick pl.startUnit).bind fun a => (prog0.timebase.tick pl.endUnit).map fun z => (a, z)

/-- A description PLACE record of cue 9 with its units, clip and hold. -/
def adFields (earliest latest clip hold : Nat) : List Byte :=
  be 2 26 ++ [1, 2] ++ be 4 9 ++ be 4 earliest ++ be 4 latest ++ be 4 clip ++ be 1 hold ++ [0] ++ be 2 0 ++ be 2 0

/-- A programme whose conversion is refused from unit 47,723 on. -/
def slowProg : Programme := { prog0 with timebase := ⟨1, 65535, 0⟩ }

def fullSub : SubTrack := { sub0 with cues := List.replicate 512 (cue 20 0 100 1 false) }
def fullAd : AdTrack := { ad0 with cues := List.replicate 512 { adCue0 with id := 20 } }

/-- The refusals of a description PLACE. -/
theorem witness_PlaceThatComesLateIsPosted_descriptions :
    (∀ a, AtRecord (adLoads a adRecord) ⟨0, 1, 9000, [adRecord]⟩ adRecord [] prog0 ∧
      RecordFits (adLoads a adRecord) ⟨0, 1, 9000, [adRecord]⟩ adRecord 1 (adRec a)) ∧
    (adRecord.dropLast.length ≠ 26 ∧ fieldAt (adFields 50 60 0 3) 16 4 = 0 ∧ (byteAt (adFields 50 60 700 0) 20).toNat = 0 ∧
      64 < (byteAt (adFields 50 60 700 65) 20).toNat ∧ fieldAt (adFields 50 49 700 3) 12 4 < fieldAt (adFields 50 49 700 3) 8 4) ∧
    ((adPlaceOf (adFields 50 47723 700 3)).isSome = true ∧ slowProg.timebase.tick 47723 = none) ∧
    (adPlaceOf adRecord = some ⟨9, 50, 60, 700, 3, false, none, none⟩ ∧ prog0.timebase.tick 50 = some 4500 ∧
      prog0.timebase.tick 60 = some 5400) ∧
    (5400 < ({ prog0 with audioLine := 5401 } : Programme).audioLine ∧ (Engine.play 0 current0).current? = some current0 ∧
      current0.id = 9) ∧
    (prog0.audioLine ≤ 5400 ∧ (∀ k, fullAd.engine.current? = some k → k.id ≠ 9) ∧
      (fullAd.cues.find? fun y => y.id == 9) = none ∧ ¬ (adLoads fullAd adRecord).RoomFor 512 0 none) :=
  ⟨fun a => ⟨⟨rfl, rfl, rfl, by decide⟩, fits_adLoads a _ (by decide +kernel) (by decide +kernel)⟩, by decide +kernel,
    by decide +kernel, by decide +kernel, by decide, by decide, (by intro k hk; cases hk), by decide +kernel,
    fun h => absurd h.2.2 (by decide)⟩

theorem witness_PlaceThatComesLateIsPosted :
    ((fieldsRecord 0 0 1 []).dropLast.length < 20 ∧ 15 < (byteAt (fieldsRecord 16 0 1 (lines 1)) 16).toNat ∧
      31 < (byteAt (fieldsRecord 0 32 1 (lines 1)) 17).toNat ∧ (byteAt (fieldsRecord 0 0 0 []) 19).toNat = 0 ∧
      4 < (byteAt (fieldsRecord 0 0 5 (lines 5)) 19).toNat ∧ linesOf 2 ((fieldsRecord 0 0 2 (lines 1)).drop 20) = none ∧
      linesOf 1 ((fieldsRecord 0 0 1 [0]).drop 20) = some [[]] ∧
      linesOf 1 ((fieldsRecord 0 0 1 (97 :: List.replicate 97 0x41)).drop 20) = some [List.replicate 97 0x41]) ∧
    (∀ r ∈ [loadsProg, slowProg], ∀ b, ∀ rec ∈ [placeRecord 12 6000 6000 1, placeRecord 12 47722 47723 1],
      AtRecord (loadsAs r b rec) ⟨0, 0, 9000, [rec]⟩ rec [] r ∧ RecordFits (loadsAs r b rec) ⟨0, 0, 9000, [rec]⟩ rec 0 (subRec b) ∧
      recordOp rec = 1 ∧ (subPlaceOf rec).isSome = true) ∧
    (ticksOf (placeRecord 12 6000 6000 1) = some (540000, 540000) ∧ slowProg.timebase.tick 47723 = none) ∧
    (RecordFits (loads (placeRecord 12 5000 6000 1)) ⟨0, 0, 9000, [placeRecord 12 5000 6000 1]⟩ (placeRecord 12 5000 6000 1) 0
        (subRec loadsSub) ∧ recordOp (placeRecord 12 5000 6000 1) = 1 ∧
      ticksOf (placeRecord 12 5000 6000 1) = some (450000, 540000) ∧ 540000 ≤ loadsProg.cutLine) ∧
    (RecordFits (loads (placeRecord 10 5000 7200 2)) ⟨0, 0, 9000, [placeRecord 10 5000 7200 2]⟩ (placeRecord 10 5000 7200 2) 0
        (subRec loadsSub) ∧ ticksOf (placeRecord 10 5000 7200 2) = some (450000, 648000) ∧
      (subRec loadsSub).Admits loadsSub (max 450000 540000) 648000 648000 ∧
      loadsSub.cues.find? (fun y => y.id == 10) = some (cue 10 450000 630000 2 true)) ∧
    (RecordFits (conceals ⟨540000, some 600000, .span⟩ (placeRecord 13 6666 6700 1)) ⟨0, 0, 9000, [placeRecord 13 6666 6700 1]⟩
        (placeRecord 13 6666 6700 1) 0 (concealingRec ⟨540000, some 600000, .span⟩) ∧
      ticksOf (placeRecord 13 6666 6700 1) = some (599940, 603000) ∧ 540000 ≤ max 599940 loadsProg.cutLine ∧
      max 599940 loadsProg.cutLine < 600000) ∧
    ((subRec fullSub).Admits fullSub (max 576000 540000) 603000 603000 ∧ (∀ y ∈ fullSub.cues, y.id = 12 → y.emitted = false) ∧
      ¬ (loadsAs loadsProg fullSub (placeRecord 12 6400 6700 1)).RoomFor 512 1 none) := by
  have h : ∀ rec ∈ [placeRecord 12 6000 6000 1, placeRecord 12 47722 47723 1],
      recordKind rec = 1 ∧ recordId rec ≠ 0 ∧ recordOp rec = 1 ∧ (subPlaceOf rec).isSome = true := by decide +kernel
  have hr : ∀ r ∈ [loadsProg, slowProg], r.state ≠ .halted := by decide
  exact ⟨by decide +kernel,
    fun r hp b rec hm => ⟨at_loadsAs _ _ _ (hr r hp), fits_loadsAs _ _ _ (h rec hm).1 (h rec hm).2.1, (h rec hm).2.2⟩,
    by decide +kernel, ⟨fits_loads _ (by decide +kernel) (by decide +kernel), by decide +kernel, by decide +kernel, by decide⟩,
    ⟨fits_loads _ (by decide +kernel) (by decide +kernel), by decide +kernel, .inl ⟨rfl, rfl⟩, by decide +kernel⟩,
    ⟨fits_conceals _ _ (by decide +kernel) (by decide +kernel), by decide +kernel, by decide, by decide⟩,
    .inl ⟨rfl, rfl⟩, fun y hy h => (by rw [List.eq_of_mem_replicate hy] at h; cases h), fun h => absurd h.2.2 (by decide)⟩

theorem witness_PlaceResolvesTheWindowItResumes :
    (let rec1 := placeRecord 13 5800 6400 2;
      AtRecord (conceals ⟨540000, none, .untilResume⟩ rec1) ⟨0, 0, 9000, [rec1]⟩ rec1 [] loadsProg ∧
      RecordFits (conceals ⟨540000, none, .untilResume⟩ rec1) ⟨0, 0, 9000, [rec1]⟩ rec1 0
        (concealingRec ⟨540000, none, .untilResume⟩) ∧
      recordOp rec1 = 1 ∧ 540000 ≤ max 522000 loadsProg.cutLine ∧ ticksOf rec1 = some (522000, 576000) ∧
      (∀ y ∈ loadsSub.cues, y.id = 13 → y.emitted = false) ∧
      (conceals ⟨540000, none, .untilResume⟩ rec1).RoomFor 2 2 none ∧
      min (max 522000 loadsProg.cutLine) ((none : Option Nat).getD (max 522000 loadsProg.cutLine)) ≤ loadsProg.cutLine) ∧
    (let rec2 := placeRecord 13 6001 6400 2;
      RecordFits (conceals ⟨540000, some 700000, .untilResume⟩ rec2) ⟨0, 0, 9000, [rec2]⟩ rec2 0
        (concealingRec ⟨540000, some 700000, .untilResume⟩) ∧ ticksOf rec2 = some (540090, 576000) ∧
      loadsProg.cutLine < min (max 540090 loadsProg.cutLine) ((some 700000).getD 0)) :=
  ⟨⟨at_conceals _ _, fits_conceals _ _ (by decide +kernel) (by decide +kernel), by decide +kernel, by decide, by decide +kernel,
      by decide +kernel, by unfold State.RoomFor; decide +kernel, by decide⟩,
    fits_conceals _ _ (by decide +kernel) (by decide +kernel), by decide +kernel, by decide⟩

theorem witness_PlaceInsertsADescriptionCue :
    (let bytes := adFields 60 60 1 64;
      bytes.length = 26 ∧ fieldAt bytes 16 4 ≠ 0 ∧ (byteAt bytes 20).toNat = 64 ∧ fieldAt bytes 8 4 = fieldAt bytes 12 4) ∧
    (∀ a, RecordFits (adLoads a adRecord) ⟨0, 1, 9000, [adRecord]⟩ adRecord 1 (adRec a)) ∧ recordOp adRecord = 1 ∧
    adPlaceOf adRecord = some ⟨9, 50, 60, 700, 3, false, none, none⟩ ∧ prog0.timebase.tick 50 = some 4500 ∧
    prog0.timebase.tick 60 = some 5400 ∧ ({ prog0 with audioLine := 5400 } : Programme).audioLine ≤ 5400 ∧
    (∀ k, ad0.engine.current? = some k → k.id ≠ 9) ∧ (adLoads ad0 adRecord).RoomFor 0 0 none ∧
    (adLoads { ad0 with cues := [adCue0] } adRecord).RoomFor 1 0 (some 0) :=
  ⟨by decide +kernel, fun a => fits_adLoads a _ (by decide +kernel) (by decide +kernel), by decide +kernel, by decide +kernel,
    by decide +kernel, by decide +kernel, by decide, (by intro k hk; cases hk), by unfold State.RoomFor; decide +kernel,
    by unfold State.RoomFor; decide +kernel⟩

def otherRecord (op : Byte) : List Byte := be 2 8 ++ [op, 1] ++ be 4 12

theorem witness_WithdrawRemovesACueAndOtherOpsFail :
    ((∀ id ∈ [10, 11, 14], RecordFits (loads (withdrawRecord id)) ⟨0, 0, 9000, [withdrawRecord id]⟩ (withdrawRecord id) 0
        (subRec loadsSub) ∧ recordOp (withdrawRecord id) = 2 ∧ (withdrawRecord id).length = 8 ∧ recordId (withdrawRecord id) = id) ∧
      loadsSub.cues.find? (fun y => y.id == 11) = some (cue 11 720000 810000 1 false) ∧
      loadsSub.cues.find? (fun y => y.id == 10) = some (cue 10 450000 630000 2 true) ∧ ∀ y ∈ loadsSub.cues, y.id ≠ 14) ∧
    ((∀ a, RecordFits (adLoads a adWithdraw) ⟨0, 1, 9000, [adWithdraw]⟩ adWithdraw 1 (adRec a)) ∧ recordOp adWithdraw = 2 ∧
      adWithdraw.length = 8 ∧ recordId adWithdraw = 9 ∧ ({ ad0 with cues := [adCue0] } : AdTrack).cues.any (·.id = 9) = true ∧
      (Engine.play 0 current0).current? = some current0 ∧ current0.id = 9 ∧ ∀ y ∈ ad0.cues, y.id ≠ 9) ∧
    (∀ op ∈ [(0 : Byte), 3, 255], AtRecord (loads (otherRecord op)) ⟨0, 0, 9000, [otherRecord op]⟩ (otherRecord op) [] loadsProg ∧
      RecordFits (loads (otherRecord op)) ⟨0, 0, 9000, [otherRecord op]⟩ (otherRecord op) 0 (subRec loadsSub) ∧
      recordOp (otherRecord op) ≠ 1 ∧ recordOp (otherRecord op) ≠ 2) ∧
    ((withdrawRecord 10 ++ [0]).length ≠ 8 ∧ recordOp (withdrawRecord 10 ++ [0]) = 2) ∧
    (63 < (⟨0, 64, 9000, []⟩ : CueLoading).track ∧ base.track 63 = none ∧
      (base.setTrack 0 (some { subRec sub0 with prog := 1 })).track 0 = some { subRec sub0 with prog := 1 } ∧
      (base.setTrack 0 (some { subRec sub0 with state := .closing })).track 0 = some { subRec sub0 with state := .closing }) ∧
    (recordKind adWithdraw ≠ (subRec sub0).body.kindNumber ∧ recordId (withdrawRecord 0) = 0 ∧
      recordOp (placeRecord 12 5000 6000 1) = 1) ∧
    (let s := { loads (otherRecord 3) with progs := (stateOf { loadsProg with state := .halted } loadsSub ad0).progs };
      s.loading = some (.cueload ⟨0, 0, 9000, [otherRecord 3]⟩) ∧ s.prog 0 = some { loadsProg with state := .halted }) := by
  have h1 : ∀ id ∈ [10, 11, 14], recordKind (withdrawRecord id) = 1 ∧ recordId (withdrawRecord id) ≠ 0 ∧
      recordOp (withdrawRecord id) = 2 ∧ (withdrawRecord id).length = 8 ∧ recordId (withdrawRecord id) = id := by decide +kernel
  have h2 : ∀ op ∈ [(0 : Byte), 3, 255], recordKind (otherRecord op) = 1 ∧ recordId (otherRecord op) ≠ 0 ∧
      recordOp (otherRecord op) ≠ 1 ∧ recordOp (otherRecord op) ≠ 2 := by decide +kernel
  refine ⟨⟨fun id h => ⟨fits_loads _ (h1 id h).1 (h1 id h).2.1, (h1 id h).2.2⟩, by decide +kernel⟩,
    ⟨fun a => fits_adLoads a _ (by decide +kernel) (by decide +kernel), by decide +kernel⟩,
    fun op h => ⟨at_loads _, fits_loads _ (h2 op h).1 (h2 op h).2.1, (h2 op h).2.2⟩, by decide +kernel⟩

/-- Page `index` of clip 700, which declares `n` pages, with `valid` samples. -/
def pageBody (index n valid : Nat) : List Byte := be 4 700 ++ be 2 index ++ be 2 n ++ be 2 valid ++ List.replicate 960 0
def page (index n valid : Nat) : Parcel := ⟨0x04, 0, 40, pageBody index n valid, 0, 0⟩
def clip0 : Clip := ⟨0, 700, 2, [some [], none], none⟩
def clipReady0 : Clip := ⟨0, 700, 2, [some [], some []], some 480⟩
def withClip (a : AdTrack) (c : Clip) : State := { stateOf prog0 sub0 a with clips := [c] }

theorem witness_NarrationPageIsStoredOrRefused :
    (let q := page 2999 3000 1;
      let s := { base with loading := some (.narration q 9) };
      s.loading = some (.narration q 9) ∧ s.prog q.slot = some prog0 ∧ prog0.state ≠ .halted ∧ (pageOf q.body).clip = 700 ∧
      (pageOf q.body).declared = 3000 ∧ (pageOf q.body).index + 1 = 3000 ∧ (pageOf q.body).valid = 1 ∧ s.clip? 0 700 = none ∧
      s.clips.length < 512 ∧ s.pagesInUse < 16384) ∧
    (let q := page 0 2 480;
      let s := { withClip ad0 clip0 with loading := some (.narration q 9) };
      s.prog q.slot = some prog0 ∧ (pageOf q.body).index < 2 ∧ (pageOf q.body).declared = 2 ∧ (pageOf q.body).valid = 480 ∧
      s.clip? q.slot 700 = some clip0 ∧ clip0.declared = 2 ∧ s.playing q.slot 700 = false ∧ clip0.present 0 = true ∧
      clip0.present 1 = false ∧ s.pagesInUse < 16384) ∧
    (let s := withClip { ad0 with engine := .play 0 current0 } clip0;
      s.clip? 0 700 = some clip0 ∧ s.playing 0 700 = true) := by decide +kernel

/-! The segment cutter -/

theorem witness_MarkThatIsNotCut :
    let m : Mark := ⟨1, 540000, 5940001, 0, 40, 5⟩
    (let s := { State.reset with markQ := [m] }; s.markQ = m :: [] ∧ s.prog m.prog = none) ∧
    (let s := { base with markQ := [m] };
      s.markQ = m :: [] ∧ s.prog m.prog = some prog0 ∧ prog0.stream = m.stream ∧ prog0.state = .active ∧ s.cuts.length < 2 ∧
      5400000 < m.e - m.s) ∧
    ({ prog0 with stream := 39 } : Programme).stream ≠ m.stream ∧ ({ prog0 with state := .halted } : Programme).state = .halted ∧
    closingProg.state = .closing ∧ 2 ≤ ({ base with cuts := [⟨0, []⟩, ⟨0, []⟩] } : State).cuts.length ∧
    ({ m with e := m.s } : Mark).e ≤ m.s ∧ maxTick < ({ m with s := maxTick + 1 } : Mark).s ∧
    m.s < ({ prog0 with cutLine := 540001 } : Programme).cutLine ∧
    (({ prog0 with lastSegment := some 1 } : Programme).lastSegment = some 1 ∧ m.k ≤ 1) := by decide +kernel

/-- A SUB track with `n` cues that overlap one segment. -/
def crowded (n : Nat) : SubTrack := { sub0 with cues := (List.range n).map fun i => cue (i + 1) 0 100 1 false }

theorem witness_TakeMovesTheCutLineAndFillsABuffer :
    MarkAccepted (cutsState cutsSub 540000 0 1080000) ⟨1, 540000, 1080000, 0, 40, 5⟩ []
      { prog0 with cutLine := 540000, lastSegment := some 0 } ∧
    MarkAccepted { base with markQ := [⟨0, maxTick - 5400000, maxTick, 0, 40, 5⟩] } ⟨0, maxTick - 5400000, maxTick, 0, 40, 5⟩ []
      prog0 ∧
    MarkAccepted { stateOf { prog0 with lastSegment := some 0 } sub0 ad0 with markQ := [⟨1, 90000, 180000, 0, 40, 5⟩] }
      ⟨1, 90000, 180000, 0, 40, 5⟩ [] { prog0 with lastSegment := some 0 } ∧
    (base.track 0).any (fun x => x.state != .closing && x.sub?.isSome) = true ∧
    (∀ k e, (cutsState cutsSub 540000 k e).track 0 = some (subRec cutsSub)) ∧ (subRec cutsSub).state = .active ∧
    (cutsSub.cues.map (·.id)).Nodup ∧
    (cutsSub.cues.filter fun c => decide (c.start < 1080000) && decide (540000 < c.stop)).length = 2 ∧
    prog0.cutLine < 90000 ∧
    (∀ n ∈ [24, 25], (base.cutTrack ⟨1, 0, 100, 0, 40, 5⟩ ⟨0, subRec (crowded n), crowded n⟩).seg.overflow = decide (24 < n)) ∧
    (({ prog0 with escalation := 0x08 } : Programme).escalation.getLsbD 3 = true ∧ prog0.escalation.getLsbD 3 = false) ∧
    (conceals ⟨540000, some 1080000, .span⟩ []).ConcealEndsAt 0 1080000 ∧
    ¬ (conceals ⟨540000, some 1080001, .untilResume⟩ []).ConcealEndsAt 0 1080000 ∧
    (concealingRec ⟨540000, some 1080001, .untilResume⟩).state ≠ .closing ∧
    (base.setTrack 0 (some { subRec loadsSub with state := .closing })).track 0 = some { subRec loadsSub with state := .closing } :=
  ⟨⟨rfl, rfl, rfl, rfl, by decide, by decide, by decide, by decide, by decide, (by intro k hk; cases hk; decide), by decide⟩,
    ⟨rfl, rfl, rfl, rfl, by decide, by decide, by decide, by decide, by decide, (by intro k hk; cases hk), by decide⟩,
    ⟨rfl, rfl, rfl, rfl, by decide, by decide, by decide, by decide, by decide, (by intro k hk; cases hk; decide), by decide⟩,
    by decide +kernel, fun _ _ => rfl, rfl, by decide, by decide, by decide, by decide +kernel, by decide,
    ⟨_, _, 540000, 1080000, .span, rfl, rfl, rfl, rfl, le_refl _⟩,
    (by rintro ⟨x, b, f, e, mode, h1, -, h2, h3, h4⟩; cases h1; cases h2; cases h3; omega), (by intro h; cases h), rfl⟩

/-- A reference in track slot 2 with one cue, and a track that conceals from it. -/
def referenceSub : SubTrack := { sub0 with cues := [cue 5 540000 1080001 1 false] }
def concealingSub : SubTrack := { loadsSub with window := some ⟨540000, none, .untilResume⟩, reference := some 2 }

theorem witness_EntriesOfACutLieInTheSegmentInOrder :
    (StyleTable.default.entries[3]?.isSome = true ∧ StyleTable.default.entries[4]? = none) ∧
    (let s := base.setTrack 2 (some { subRec referenceSub with stream := 43 });
      let x : SubOf := ⟨0, { subRec concealingSub with state := .concealing }, concealingSub⟩;
      (∀ c ∈ x.sub.cues, c.start < c.stop) ∧ x.sub.reference = some 2 ∧ s.sub? 2 = some referenceSub ∧
      (∀ c ∈ referenceSub.cues, c.start < c.stop) ∧
      (s.cutTrack ⟨1, 540000, 1080000, 0, 40, 5⟩ x).seg.entries.any (fun e =>
        e.flags.concealed && !e.flags.contIn && e.flags.contOut && e.id == 5) = true) ∧
    (∃ (s : State) (m : Mark) (x : SubOf), m.s < m.e ∧ (∀ c ∈ x.sub.cues, c.start < c.stop) ∧
      (∀ b t, x.sub.reference = some t → s.sub? t = some b → ∀ c ∈ b.cues, c.start < c.stop) ∧
      x.track.state = .active ∧ (s.cutTrack m x).seg.entries.length = 2) ∧
    (∃ (s : State) (m : Mark) (x : SubOf), m.s < m.e ∧ (∀ c ∈ x.sub.cues, c.start < c.stop) ∧
      (∀ b t, x.sub.reference = some t → s.sub? t = some b → ∀ c ∈ b.cues, c.start < c.stop) ∧
      x.track.state = .concealing ∧ (s.cutTrack m x).seg.concealedGap = true) :=
  ⟨by decide +kernel, by decide +kernel,
    ⟨base, ⟨1, 540000, 1080000, 0, 40, 5⟩, ⟨0, subRec cutsSub, cutsSub⟩, by decide, by decide, (by intro b t h; cases h), rfl,
      by decide +kernel⟩,
    ⟨base, ⟨1, 540000, 1080000, 0, 40, 5⟩,
      ⟨0, concealingRec ⟨540000, none, .untilResume⟩, { loadsSub with window := some ⟨540000, none, .untilResume⟩ }⟩, by decide,
      by decide, (by intro b t h; cases h), rfl, by decide +kernel⟩⟩

def subseg0 : SubSeg := ⟨0, 41, [0x65], 0, 0, 100, false, false, false, []⟩

theorem witness_SubsegIsPlacedInTrackOrder :
    (let s := { rotating 0 0 15 0 0 .thru with cuts := [⟨0, [subseg0]⟩] };
      s.cuts = ⟨0, subseg0 :: []⟩ :: [] ∧ s.egress.seg.length < 16) ∧
    (let s := { rotating 0 0 16 0 0 .thru with cuts := [⟨0, [subseg0, subseg0]⟩] };
      s.cuts = ⟨0, subseg0 :: [subseg0]⟩ :: [] ∧ 16 ≤ s.egress.seg.length) := by decide +kernel

/-! The audio path -/

def queued (r : Programme) (c : AudioCopy) : State := { stateOf r sub0 ad0 with audioQ := [c] }

theorem witness_AudioTakeMovesTheLineAndJudges :
    (let s := queued prog0 copy0;
      s.audio = none ∧ s.audioQ = copy0 :: [] ∧ s.prog copy0.prog = some prog0 ∧ prog0.stream = copy0.stream ∧
      prog0.state = .active) ∧
    (let s := queued { prog0 with state := .halted } { copy0 with body := List.replicate 1928 1 };
      s.audio = none ∧ s.prog 0 = some { prog0 with state := .halted } ∧
      maxTick < ({ copy0 with body := List.replicate 1928 1 } : AudioCopy).carriedTick) ∧
    (let s := { State.reset with audioQ := [copy0] }; s.audio = none ∧ s.audioQ = copy0 :: [] ∧ s.prog copy0.prog = none) ∧
    ((queued { prog0 with stream := 39 } copy0).prog 0 = some { prog0 with stream := 39 } ∧
      ({ prog0 with stream := 39 } : Programme).stream ≠ copy0.stream) ∧
    (queued closingProg copy0).prog 0 = some closingProg ∧ closingProg.state = .closing ∧
    ({ prog0 with state := .draining } : Programme).state = .draining := by decide +kernel

def work (state : ProgState) (sub : Bool) (toRender toStep : List TrackSlot) : AudioWork :=
  ⟨{ copy0 with substituted := sub }, 900, state, [1], toRender, toStep, none, false⟩
def mixing (w : AudioWork) (a : AdTrack) (n : Nat) : State :=
  { stateOf prog0 sub0 a with
    audio := some w
    egress := { State.reset.egress with mix := List.replicate n parcel0 } }

theorem at_mixing (state : ProgState) (sub : Bool) (a : AdTrack) :
    AtRendering (mixing (work state sub [1] [1]) a 31) (work state sub [1] [1]) 1 [] (adRec a) a prog0 :=
  ⟨rfl, rfl, rfl, rfl, rfl, rfl, by decide, by simp [mixing]⟩

theorem witness_CopyRenderingsEqualTheProgramme :
    AtRendering (mixing (work .active false [1] [1]) ad0 31) (work .active false [1] [1]) 1 [] (adRec ad0) ad0 prog0 ∧
    (work .active false [1] [1]).copy.substituted = false ∧ (work .active false [1] [1]).takenIn = .active ∧ ad0.engine = .idle ∧
    AtRendering (mixing (work .halted false [1] [1]) { ad0 with engine := .play 0 current0 } 31) (work .halted false [1] [1]) 1 []
      (adRec { ad0 with engine := .play 0 current0 }) { ad0 with engine := .play 0 current0 } prog0 ∧
    (work .draining false [1] [1]).takenIn = .draining :=
  ⟨at_mixing _ _ _, rfl, rfl, rfl, at_mixing _ _ _, rfl⟩

/-- A clip of two pages, 479 samples valid in the last. -/
def clipTwo : Clip := ⟨0, 700, 2, [some (List.replicate 480 5), some (List.replicate 480 7)], some 479⟩

theorem witness_MixedRenderingsWriteTheGain :
    AtRendering (mixing (work .active false [1] [1]) { ad0 with engine := .attack 1 current0 } 31) (work .active false [1] [1]) 1 []
      (adRec { ad0 with engine := .attack 1 current0 }) { ad0 with engine := .attack 1 current0 } prog0 ∧
    AtRendering (mixing (work .active true [1] [1]) { ad0 with engine := .release 1 current0 } 31) (work .active true [1] [1]) 1 []
      (adRec { ad0 with engine := .release 1 current0 }) { ad0 with engine := .release 1 current0 } prog0 ∧
    AtRendering (mixing (work .active false [1] [1]) { ad0 with engine := .play 0 current0 } 31) (work .active false [1] [1]) 1 []
      (adRec { ad0 with engine := .play 0 current0 }) { ad0 with engine := .play 0 current0 } prog0 ∧
    ((Engine.attack 1 current0).current? = some current0 ∧ (Engine.release 1 current0).current? = some current0 ∧
      (Engine.play 0 current0).current? = some current0) ∧
    (∀ state, AtRendering (mixing (work state true [1] [1]) ad0 31) (work state true [1] [1]) 1 [] (adRec ad0) ad0 prog0 ∧
      (work state true [1] [1]).copy.substituted = true ∧ (work state true [1] [1]).takenIn = state ∧ ad0.engine = .idle) ∧
    (let s := withClip ad0 clipTwo;
      s.clip? 0 current0.clip = some clipTwo ∧ clipTwo.pages[0]? = some (some (List.replicate 480 5)) ∧
      clipTwo.pages[1]? = some (some (List.replicate 480 7)) ∧ 0 + 1 ≠ clipTwo.declared ∧ 1 + 1 = clipTwo.declared ∧
      clipTwo.lastValid = some 479 ∧ s.narration 0 current0 1 478 = 7 ∧ s.narration 0 current0 1 479 = 0) ∧
    (let s := mixing (work .active false [1] [1]) ad0 32;
      s.audio = some (work .active false [1] [1]) ∧ s.track 1 = some (adRec ad0) ∧ 32 ≤ s.egress.mix.length) ∧
    (let w : AudioWork := { work .active false [] [1] with rendered := some parcel0 };
      (mixing w ad0 31).audio = some w ∧ w.rendered = some parcel0 ∧ (mixing w ad0 31).egress.mix.length < 32 ∧
      32 ≤ (mixing w ad0 32).egress.mix.length) :=
  ⟨at_mixing _ _ _, at_mixing _ _ _, at_mixing _ _ _, ⟨rfl, rfl, rfl⟩, fun _ => ⟨at_mixing _ _ _, rfl, rfl, rfl⟩, by decide +kernel,
    ⟨rfl, rfl, by simp [mixing]⟩, rfl, rfl, by simp [mixing], by simp [mixing]⟩

theorem witness_RampGainsLieBetweenTheirEnds : 1 ≤ 50 ∧ 23999 < 480 * 50 ∧ 8192 ≤ 32768 := by decide

theorem witness_AccumulatorRoundsToNearestHalfUp : 32768 ≤ 32768 ∧ 0 ≤ 32768 := by decide

theorem witness_ClampKeepsSamplesInRange :
    (-32768 : Int) ≤ -32768 ∧ (32767 : Int) ≤ 32767 ∧ (32767 : Int) < 32768 ∧ (-32769 : Int) < -32768 ∧ 32768 ≤ 32768 := by decide

/-! The event engine -/

def stepping (a : AdTrack) (clips : List Clip) : State :=
  { stateOf prog0 sub0 a with audio := some (work .active false [] [1]), clips := clips }

theorem reaches_stepping (a : AdTrack) (clips : List Clip) :
    ReachesStep (stepping a clips) (work .active false [] [1]) 1 [] prog0 (adRec a) a :=
  ⟨rfl, rfl, rfl, rfl, rfl, by decide, rfl, rfl⟩

theorem at_stepping (a : AdTrack) (clips : List Clip) (h : ∀ c ∈ a.cues.tail, 900 < c.latest) :
    AtStep (stepping a clips) (work .active false [] [1]) 1 [] prog0 (adRec a) a :=
  ⟨reaches_stepping a clips, h⟩

/-- A list whose head is cue 9, with earliest and latest tick and hold. -/
def headCue (earliest latest hold : Nat) : AdCue := ⟨9, earliest, latest, 700, hold, false, none, none, .pending⟩

theorem waits_none : ad0.HeadWaits 900 := by intro h hh; cases hh
theorem waits_head : ({ ad0 with cues := [headCue 901 902 1] } : AdTrack).HeadWaits 900 := by
  intro h hh; cases hh; exact ⟨rfl, by decide⟩

theorem witness_AttackAndPlayAdvanceByOneParcel :
    (∀ (e : Engine), ∀ cues ∈ [[], [headCue 901 902 1]],
      AtStep (stepping { ad0 with engine := e, cues := cues } [clipReady0]) (work .active false [] [1]) 1 [] prog0
        (adRec { ad0 with engine := e, cues := cues }) { ad0 with engine := e, cues := cues }) ∧
    (stepping ad0 [clipReady0]).clip? 0 current0.clip = some clipReady0 ∧ 0 + 1 < clipReady0.declared ∧
    1 + 1 = clipReady0.declared ∧ 1 ≤ ad0.release ∧ ad0.HeadWaits 900 ∧
    ({ ad0 with cues := [headCue 901 902 1] } : AdTrack).HeadWaits 900 :=
  ⟨fun _ cues h => at_stepping _ _ (by revert cues; simp [headCue]), by decide +kernel, by decide, by decide, by decide, waits_none,
    waits_head⟩

theorem witness_DescriptionEndsDoneAndFreesItsClip :
    (∀ (e : Engine), ∀ cues ∈ [[], [headCue 901 902 1]],
      AtStep (stepping { ad0 with engine := e, release := 0, cues := cues } [clipReady0]) (work .active false [] [1]) 1 [] prog0
        (adRec { ad0 with engine := e, release := 0, cues := cues }) { ad0 with engine := e, release := 0, cues := cues }) ∧
    (stepping ad0 [clipReady0]).clip? 0 current0.clip = some clipReady0 ∧ 1 + 1 = clipReady0.declared ∧ ad0.HeadWaits 900 ∧
    ({ ad0 with cues := [headCue 901 902 1] } : AdTrack).HeadWaits 900 :=
  ⟨fun _ cues h => at_stepping _ _ (by revert cues; simp [headCue]), by decide +kernel, by decide, waits_none, waits_head⟩

theorem witness_HeadTriggersOnQuietOrAtItsDeadline :
    (∀ (e : Engine) (h : AdCue), AtStep (stepping { ad0 with engine := e, cues := [h] } [clipReady0]) (work .active false [] [1]) 1 []
      prog0 (adRec { ad0 with engine := e, cues := [h] }) { ad0 with engine := e, cues := [h] }) ∧
    (stepping ad0 [clipReady0]).clipReady 0 700 = true ∧
    ((headCue 900 901 0).earliest ≤ (work .active false [] [1]).tick ∧ (headCue 900 901 0).QuietEnough prog0) ∧
    ({ headCue 901 902 0 with state := .armed } : AdCue).state = .armed ∧
    (headCue 0 900 64).latest ≤ (work .active false [] [1]).tick :=
  ⟨fun _ _ => at_stepping _ _ (by simp), by decide +kernel, ⟨by decide, Nat.zero_le _⟩, rfl, by decide⟩

/-- A head, a cue overdue at tick 900 and one that is not. -/
def overdueCues (head : AdCue) : List AdCue := [head, { headCue 0 900 1 with id := 8 }, { headCue 0 901 1 with id := 7 }]

theorem witness_HeadWaitsOrIsMissedAndHaltStopsSteps :
    (∀ (e : Engine) (h : AdCue), AtStep (stepping { ad0 with engine := e, cues := [h] } [clip0]) (work .active false [] [1]) 1 [] prog0
      (adRec { ad0 with engine := e, cues := [h] }) { ad0 with engine := e, cues := [h] }) ∧
    (stepping ad0 [clip0]).clipReady 0 700 = false ∧
    ((headCue 901 902 1).state = .pending ∧ (work .active false [] [1]).tick < (headCue 901 902 1).earliest) ∧
    ((headCue 900 901 1).earliest ≤ 900 ∧ 900 < (headCue 900 901 1).latest ∧ ¬ (headCue 900 901 1).QuietEnough prog0) ∧
    ((headCue 900 900 1).latest ≤ 900 ∧ prog0.state = .active ∧ ∀ y ∈ ([] : List AdCue), y.id ≠ 9) ∧
    (∀ (e : Engine), ∀ h ∈ [headCue 901 902 1, headCue 900 901 1, headCue 900 900 1], ∀ r ∈ [prog0, { prog0 with escalation := 0x10 }],
      let a := { ad0 with engine := e, cues := overdueCues h };
      ReachesStep { stepping a [clip0] with progs := (stateOf r sub0 a).progs } (work .active false [] [1]) 1 [] r (adRec a) a ∧
      a.cues = h :: (overdueCues h).tail ∧ (a.cues.map (·.id)).Nodup ∧
      ((overdueCues h).tail.filter fun c => decide (c.latest ≤ 900)).map (·.id) = [8] ∧
      ((overdueCues h).tail.filter fun c => decide (900 < c.latest)).map (·.id) = [7]) ∧
    ((prog0.oneMissed 1 8 .late 9).state ≠ .halted ∧
      (({ prog0 with escalation := 0x10 } : Programme).oneMissed 1 8 .late 9).state = .halted) ∧
    ({ stepping ad0 [] with progs := (stateOf { prog0 with state := .halted } sub0 ad0).progs } : State).prog 0
      = some { prog0 with state := .halted } := by
  refine ⟨fun _ _ => at_stepping _ _ (by simp), by decide +kernel, by decide, ⟨by decide, by decide, by unfold AdCue.QuietEnough; decide⟩,
    by decide, fun e h hh r hr => ⟨⟨rfl, rfl, rfl, rfl, rfl, ?_, rfl, rfl⟩, rfl, ?_⟩, ?_, by decide +kernel⟩
  · revert r; decide
  · have hl : ∀ h ∈ [headCue 901 902 1, headCue 900 901 1, headCue 900 900 1], ((overdueCues h).map (·.id)).Nodup ∧
        ((overdueCues h).tail.filter fun c => decide (c.latest ≤ 900)).map (·.id) = [8] ∧
        ((overdueCues h).tail.filter fun c => decide (900 < c.latest)).map (·.id) = [7] := by decide
    exact hl h hh
  · unfold Programme.oneMissed; decide

/-! Requests -/

/-- Programme 0 with one request waiting and 15 CTL places taken. -/
def asked (r : Programme) (b : SubTrack) (a : AdTrack) (name : Byte) (params : List Byte) : State :=
  { stateOf r b a with
    requestQ := [ask name params]
    egress := { State.reset.egress with ctl := List.replicate 15 (.filled parcel0) } }

theorem can_asked (r : Programme) (b : SubTrack) (a : AdTrack) (name : Byte) (params : List Byte) :
    CanTake (asked r b a name params) (ask name params) [] name :=
  ⟨rfl, rfl, rfl, rfl, by simp [asked]⟩

theorem takes_prog0 : prog0.takes := ⟨.inl rfl, rfl⟩
theorem takes_halted : ({ prog0 with state := .halted } : Programme).takes := ⟨.inr rfl, rfl⟩

theorem witness_RequestsAreJudgedByTheirProgramme :
    CanTake (asked prog0 sub0 ad0 0x0E [1, 0]) (ask 0x0E [1, 0]) [] 0x0E ∧ (ask 0x0E [1, 0]).params.head? = some 1 ∧
    (CanTake { asked prog0 sub0 ad0 0x0B [] with progs := State.reset.progs } (ask 0x0B []) [] 0x0B ∧
      ({ asked prog0 sub0 ad0 0x0B [] with progs := State.reset.progs } : State).prog 0 = none) ∧
    ((asked fenced sub0 ad0 0x0B []).prog 0 = some fenced ∧ fenced.deferred ≠ none) ∧
    CanTake (asked prog0 sub0 ad0 0x02 []) (ask 0x02 []) [] 0x02 ∧
    (CanTake (asked { prog0 with state := .halted } sub0 ad0 0x0A []) (ask 0x0A []) [] 0x0A ∧
      ({ prog0 with state := .halted } : Programme).state = .halted) :=
  ⟨can_asked _ _ _ _ _, rfl, ⟨⟨rfl, rfl, rfl, rfl, by simp [asked]⟩, rfl⟩, ⟨rfl, by decide⟩, can_asked _ _ _ _ _,
    can_asked _ _ _ _ _, rfl⟩

theorem witness_ReadsAnswerWithTheValuesAsTheyStand :
    CanTake (asked prog0 sub0 ad0 0x01 []) (ask 0x01 []) [] 0x01 ∧ CanTake (asked prog0 sub0 ad0 0x0C []) (ask 0x0C []) [] 0x0C ∧
    CanTake (asked prog0 sub0 ad0 0x0D [1]) (ask 0x0D [1]) [] 0x0D ∧
    CanTake (asked prog0 sub0 ad0 0x0E [1, 1]) (ask 0x0E [1, 1]) [] 0x0E ∧
    CanTake (asked prog0 sub0 ad0 0x0E [0, 0]) (ask 0x0E [0, 0]) [] 0x0E ∧ prog0.takes ∧
    (asked prog0 sub0 ad0 0x0D [1]).track 1 = some (adRec ad0) ∧ [1] = [BitVec.ofNat 8 (1 : TrackSlot).val] ∧
    (CanTake (asked prog0 sub0 ad0 0x0D [0]) (ask 0x0D [0]) [] 0x0D ∧
      (asked prog0 sub0 ad0 0x0D [0]).track 0 = some (subRec sub0) ∧ [0] = [BitVec.ofNat 8 (0 : TrackSlot).val]) :=
  ⟨can_asked _ _ _ _ _, can_asked _ _ _ _ _, can_asked _ _ _ _ _, can_asked _ _ _ _ _, can_asked _ _ _ _ _, takes_prog0, rfl,
    by decide, can_asked _ _ _ _ _, rfl, by decide⟩

/-- OPEN-PROGRAMME's parameters at the ends of their ranges. -/
def openParams : List Byte := [40] ++ be 4 240000 ++ be 2 1 ++ be 8 maxTick ++ be 2 32767 ++ [0x7C]

theorem witness_OpenProgrammeWritesAFreshRecord :
    let s : State := { State.reset with requestQ := [ask 0x02 openParams] }
    CanTake s (ask 0x02 openParams) [] 0x02 ∧ s.prog 0 = none ∧ openParams.length = 18 ∧ 1 ≤ fieldAt openParams 1 4 ∧
    fieldAt openParams 1 4 ≤ 240000 ∧ 1 ≤ fieldAt openParams 5 2 ∧ fieldAt openParams 7 8 ≤ maxTick ∧
    fieldAt openParams 15 2 ≤ 32767 ∧ (byteAt openParams 17).getLsbD 0 = false ∧ (byteAt openParams 17).getLsbD 1 = false ∧
    (byteAt openParams 17).getLsbD 7 = false ∧ (∀ p r, s.prog p = some r → r.stream ≠ byteAt openParams 0) ∧
    (∀ t x, s.track t = some x → x.stream ≠ byteAt openParams 0) :=
  ⟨⟨rfl, rfl, rfl, rfl, by decide⟩, rfl, by decide, by decide +kernel, by decide +kernel, by decide +kernel, by decide +kernel,
    by decide +kernel, by decide +kernel, by decide +kernel, by decide +kernel, forallProgs (by decide +kernel),
    forallTracks (by decide +kernel)⟩

theorem witness_SetProgrammeWritesThresholdAndEscalation :
    CanTake (asked prog0 sub0 ad0 0x03 [0x7F, 0xFF, 0x7C]) (ask 0x03 [0x7F, 0xFF, 0x7C]) [] 0x03 ∧ prog0.takes ∧
    (fieldAt [0x7F, 0xFF, 0x7C] 0 2 ≤ 32767 ∧ (byteAt [0x7F, 0xFF, 0x7C] 2).getLsbD 7 = false) ∧
    32767 < fieldAt [0x80, 0x00, 0x7C] 0 2 ∧ (byteAt [0, 0, 1] 2).getLsbD 0 = true ∧
    (CanTake { asked prog0 sub0 ad0 0x02 (42 :: openParams.tail) with progs := State.reset.progs }
        (ask 0x02 (42 :: openParams.tail)) [] 0x02 ∧ (asked prog0 sub0 ad0 0x02 []).track 1 = some (adRec ad0) ∧
      (adRec ad0).stream = byteAt (42 :: openParams.tail) 0) :=
  ⟨can_asked _ _ _ _ _, takes_prog0, by decide +kernel, by decide +kernel, by decide, ⟨rfl, rfl, rfl, rfl, by simp [asked]⟩, rfl, rfl⟩

theorem witness_DrainBeginsAtCloseAndReset :
    CanTake (asked prog0 sub0 ad0 0x04 []) (ask 0x04 []) [] 0x04 ∧
    CanTake (asked { prog0 with state := .halted } sub0 ad0 0x05 []) (ask 0x05 []) [] 0x05 ∧ prog0.takes ∧
    ({ prog0 with state := .halted } : Programme).takes :=
  ⟨can_asked _ _ _ _ _, can_asked _ _ _ _ _, takes_prog0, takes_halted⟩

/-- OPEN-TRACK's parameters: a SUB track with a reference, and an AD track at the ends of its ranges. -/
def subParams (n : Nat) : List Byte := [1, 50, 8] ++ List.replicate 8 0x7E ++ [1] ++ be 1 n ++ [0, 0, 0, 0, 0, 0]
def adParams : List Byte := [2, 51, 1] ++ [0x20] ++ List.replicate 7 0 ++ [0, 0] ++ be 2 32768 ++ be 2 32768 ++ [50, 50]

theorem witness_OpenTrackTakesTheLowestFreeSlot :
    (let s := asked prog0 sub0 ad0 0x06 (subParams 0);
      CanTake s (ask 0x06 (subParams 0)) [] 0x06 ∧ (subParams 0).length = 19 ∧ (byteAt (subParams 0) 2).toNat = 8 ∧
      (∀ c ∈ ((subParams 0).drop 3).take 8, 0x20 ≤ c.toNat ∧ c.toNat ≤ 0x7E) ∧
      (∀ p r, s.prog p = some r → r.stream ≠ byteAt (subParams 0) 1) ∧
      (∀ u y, s.track u = some y → y.stream ≠ byteAt (subParams 0) 1) ∧ s.track 2 = none ∧ (∀ u, u < 2 → s.track u ≠ none) ∧
      byteAt (subParams 0) 0 = 1 ∧ (prog0.tracks.filter fun u => (s.sub? u).isSome).length < 8 ∧ byteAt (subParams 0) 11 = 1 ∧
      (byteAt (subParams 0) 12).toNat = (0 : TrackSlot).val ∧ s.track 0 = some (subRec sub0) ∧ s.sub? 0 ≠ none) ∧
    (adParams.length = 19 ∧ byteAt adParams 0 = 2 ∧ fieldAt adParams 13 2 ≤ 32768 ∧ (byteAt adParams 17).toNat ≤ 50 ∧
      (prog0.tracks.filter fun u => ((asked prog0 sub0 ad0 0x06 adParams).ad? u).isSome).length < 4) :=
  ⟨⟨can_asked _ _ _ _ _, by decide +kernel, by decide +kernel, by decide +kernel, forallProgs (by decide +kernel),
      forallTracks (by decide +kernel), rfl, by decide +kernel, by decide +kernel, by decide +kernel, by decide +kernel,
      by decide +kernel, rfl, by decide +kernel⟩, by decide +kernel⟩

theorem witness_CloseTrackBeginsATrackDrain :
    CanTake (asked prog0 sub0 ad0 0x07 [1]) (ask 0x07 [1]) [] 0x07 ∧ prog0.takes ∧
    (asked prog0 sub0 ad0 0x07 [1]).track 1 = some (adRec ad0) ∧ (adRec ad0).prog = 0 ∧ 63 < (64 : Byte).toNat ∧
    (asked prog0 sub0 ad0 0x07 [63]).track 63 = none :=
  ⟨can_asked _ _ _ _ _, takes_prog0, rfl, rfl, by decide, rfl⟩

theorem witness_LoadStyleReplacesTheTable :
    CanTake (asked prog0 sub0 ad0 0x08 (0 :: 32 :: List.replicate 192 0)) (ask 0x08 (0 :: 32 :: List.replicate 192 0)) [] 0x08 ∧
    (List.replicate 192 (0 : Byte)).length = 6 * (32 : Byte).toNat ∧ (stylesOf 32 (List.replicate 192 0)).isSome = true ∧
    stylesOf 0 [] = some [] ∧ (asked prog0 sub0 ad0 0x08 []).track 0 = some (subRec sub0) :=
  ⟨can_asked _ _ _ _ _, by decide +kernel, by decide +kernel, rfl, rfl⟩

/-- CONCEAL parameters from tick `f`, with an end for a span. -/
def spanParams (f e : Nat) : List Byte := [0] ++ be 8 f ++ be 8 e
def untilParams (f : Nat) : List Byte := [0] ++ be 8 f

theorem conceal_accepted (b : SubTrack) (name : Byte) (params : List Byte) (h0 : byteAt params 0 = 0)
    (hf : fieldAt params 1 8 ≤ maxTick) :
    ConcealAccepted (asked prog0 b ad0 name params) (ask name params) prog0 0 (subRec b) b :=
  ⟨rfl, rfl, rfl, by show (byteAt params 0).toNat = 0; rw [h0]; rfl, rfl, rfl, rfl, rfl, hf⟩

theorem witness_ConcealSpanClearsItsWindow :
    CanTake (asked prog0 loadsSub ad0 0x09 (spanParams 0 maxTick)) (ask 0x09 (spanParams 0 maxTick)) [] 0x09 ∧
    (spanParams 0 maxTick).length = 17 ∧
    ConcealAccepted (asked prog0 loadsSub ad0 0x09 (spanParams 0 maxTick)) (ask 0x09 (spanParams 0 maxTick)) prog0 0
      (subRec loadsSub) loadsSub ∧ fieldAt (spanParams 0 maxTick) 9 8 ≤ maxTick ∧
    fieldAt (spanParams 500 500) 9 8 ≤ max (fieldAt (spanParams 500 500) 1 8) prog0.cutLine ∧
    max (fieldAt (spanParams 500 501) 1 8) prog0.cutLine < fieldAt (spanParams 500 501) 9 8 :=
  ⟨can_asked _ _ _ _ _, by decide +kernel, conceal_accepted _ _ _ (by decide +kernel) (by decide +kernel), by decide +kernel,
    by decide +kernel, by decide +kernel⟩

theorem witness_ConcealUntilResumeLooksForTheNextCue :
    CanTake (asked prog0 loadsSub ad0 0x0A (untilParams 720000)) (ask 0x0A (untilParams 720000)) [] 0x0A ∧
    (untilParams 720000).length = 9 ∧
    ConcealAccepted (asked prog0 loadsSub ad0 0x0A (untilParams 720000)) (ask 0x0A (untilParams 720000)) prog0 0
      (subRec loadsSub) loadsSub ∧
    resumeAt 720000 (clearWindow 720000 0 none loadsSub.cues) = some 720000 ∧
    resumeAt 720001 (clearWindow 720001 0 none loadsSub.cues) ≠ some 720001 :=
  ⟨can_asked _ _ _ _ _, by decide +kernel, conceal_accepted _ _ _ (by decide +kernel) (by decide +kernel), by decide +kernel,
    by decide +kernel⟩

theorem witness_FenceIsDeferredBehindItsMarker :
    CanTake (asked prog0 sub0 ad0 0x0B []) (ask 0x0B []) [] 0x0B ∧ prog0.takes ∧
    (asked prog0 sub0 ad0 0x0B []).prog 0 = some prog0 ∧
    (CanTake { asked prog0 sub0 ad0 0x0B [] with loaderQ := List.replicate 32 (.fence 0 1) } (ask 0x0B []) [] 0x0B ∧
      32 ≤ (List.replicate 32 (LoaderEntry.fence 0 1)).length) ∧
    (let s : State := { stateOf fenced sub0 ad0 with fenceWaiting := some 0, loaderQ := List.replicate 31 (.fence 0 1) };
      s.fenceWaiting = some 0 ∧ s.prog 0 = some fenced ∧ fenced.deferred = some ⟨.fence, 7, 40⟩ ∧ s.loaderQ.length < 32) :=
  ⟨can_asked _ _ _ _ _, takes_prog0, rfl, ⟨⟨rfl, rfl, rfl, rfl, by simp [asked]⟩, by decide⟩, rfl, rfl, rfl, by decide⟩

theorem witness_SetEgressPendsAndUnknownNamesAreRange :
    let ps : List Byte := [0, 0, 9, 1, 1, 1, 8, 0, 0]
    CanTake (asked prog0 sub0 ad0 0x0F ps) (ask 0x0F ps) [] 0x0F ∧ ps.length = 9 ∧
    GrantMode.carriedBy .single (byteAt ps 1) (byteAt ps 2) ∧ GrantMode.carriedBy (.batch 1) (byteAt ps 3) (byteAt ps 4) ∧
    GrantMode.carriedBy (.batch 8) (byteAt ps 5) (byteAt ps 6) ∧
    CanTake (asked prog0 sub0 ad0 0 []) (ask 0 []) [] 0 ∧ CanTake (asked prog0 sub0 ad0 17 []) (ask 17 []) [] 17 ∧
    (0 : Byte).toNat = 0 ∧ 16 < (17 : Byte).toNat :=
  ⟨can_asked _ _ _ _ _, rfl, .inl ⟨rfl, rfl⟩, .inr ⟨rfl, rfl, by decide, by decide⟩, .inr ⟨rfl, rfl, by decide, by decide⟩,
    can_asked _ _ _ _ _, can_asked _ _ _ _ _, by decide, by decide⟩

theorem witness_UnitResetClosesTheIngressAndDiscardsRequests :
    CanTake (asked prog0 sub0 ad0 0x10 []) (ask 0x10 []) [] 0x10 ∧ (ask 0x10 []).params = [] ∧
    (let s : State := { base with unitReset := some ⟨1, 40, 0, false⟩, requestQ := [ask 1 []] };
      s.unitReset = some ⟨1, 40, 0, false⟩ ∧ s.requestQ = ask 1 [] :: []) ∧ (closed base).rx.closed = true :=
  ⟨can_asked _ _ _ _ _, rfl, ⟨rfl, rfl⟩, rfl⟩

/-! Completions -/

def deferring (k : DeferredKind) (state : ProgState) : Programme := { prog0 with state := state, deferred := some ⟨k, 7, 40⟩ }

/-- A programme in slot 0 whose deferred request holds the second CTL place. -/
def waiting (k : DeferredKind) (state : ProgState) : State :=
  { stateOf (deferring k state) sub0 ad0 with egress := { State.reset.egress with ctl := [.filled parcel0, .reserved 0] } }

theorem fills_waiting (k : DeferredKind) (state : ProgState) (x : CtlPlace) :
    Fills (waiting k state).egress.ctl [.filled parcel0, x] (.reserved 0) x :=
  ⟨[.filled parcel0], [], rfl, by decide, rfl⟩

theorem idle_waiting (k : DeferredKind) (state : ProgState) : NothingInFlight (waiting k state) 0 :=
  ⟨(by intro c h; cases h), (by intro q o h; cases h), (by intro c h; cases h), (by intro w h; cases h)⟩

theorem witness_ResetAndCloseProgrammeComplete :
    ((waiting .resetProgramme .draining).prog 0 = some (deferring .resetProgramme .draining) ∧
      NothingInFlight (waiting .resetProgramme .draining) 0 ∧
      Fills (waiting .resetProgramme .draining).egress.ctl [.filled parcel0, .filled parcel0] (.reserved 0) (.filled parcel0)) ∧
    ((waiting .closeProgramme .closing).prog 0 = some (deferring .closeProgramme .closing) ∧
      NothingInFlight (waiting .closeProgramme .closing) 0 ∧
      (∀ x ∈ (waiting .closeProgramme .closing).egress.seg, x.slot ≠ 0) ∧
      (∀ x ∈ (waiting .closeProgramme .closing).egress.mix, x.slot ≠ 0) ∧
      Fills (waiting .closeProgramme .closing).egress.ctl [.filled parcel0, .filled parcel0] (.reserved 0) (.filled parcel0)) :=
  ⟨⟨rfl, idle_waiting _ _, fills_waiting _ _ _⟩, rfl, idle_waiting _ _, (by intro x h; cases h), (by intro x h; cases h),
    fills_waiting _ _ _⟩

theorem witness_CloseTrackCompletesAfterItsDrain :
    (waiting (.closeTrack 1) .active).prog 0 = some (deferring (.closeTrack 1) .active) ∧
    (∀ c ∈ (waiting (.closeTrack 1) .active).cuts, ∀ u ∈ c.subsegs, u.track ≠ 1) ∧
    (∀ w, (waiting (.closeTrack 1) .active).audio = some w → 1 ∉ w.served) ∧
    Fills (waiting (.closeTrack 1) .active).egress.ctl [.filled parcel0, .filled parcel0] (.reserved 0) (.filled parcel0) :=
  ⟨rfl, (by intro c h; cases h), (by intro w h; cases h), fills_waiting _ _ _⟩

theorem witness_NoticesAndTheUnitResetReplyArePlaced :
    (let r : Programme := { prog0 with notice := { NoticeSlot.empty with segmentGap := true } };
      let s : State := { stateOf r sub0 ad0 with egress := { State.reset.egress with ctl := List.replicate 11 (.filled parcel0) } };
      s.unitReset = none ∧ s.egress.ctl.length + 5 ≤ 16 ∧ s.prog 0 = some r ∧ r.notice.kindsNumber ≠ 0 ∧
      ∀ p' r', p' < 0 → s.prog p' = some r' → r'.notice.kindsNumber = 0) ∧
    (let s : State := { base with
        unitReset := some ⟨1, 40, 0, false⟩
        egress := { State.reset.egress with ctl := [.reservedForUnit] } };
      (s.rx.buffer = [] ∧ s.loaderQ = [] ∧ s.markQ = [] ∧ s.audioQ = [] ∧ s.requestQ = [] ∧ s.loading = none ∧ s.audio = none ∧
        s.fenceWaiting = none ∧ s.cuts = [] ∧ s.egress.thru = [] ∧ s.egress.seg = [] ∧ s.egress.mix = []) ∧
      (∀ p r, s.prog p = some r → r.deferred = none) ∧
      Fills s.egress.ctl [.unitResetReply parcel0] .reservedForUnit (.unitResetReply parcel0)) :=
  ⟨⟨rfl, by simp, rfl, by decide, fun p' _ h => absurd h (Fin.not_lt_zero p')⟩,
    ⟨⟨rfl, rfl, rfl, rfl, rfl, rfl, rfl, rfl, rfl, rfl, rfl, rfl⟩, forallProgs (by decide +kernel), [], [], rfl, by decide, rfl⟩⟩

/-! Boundary values of the clauses about bytes, ranges and refusals -/

/-- The nine bytes of a header of kind `kind` that declares `n` body bytes. -/
def headerBytesOf (kind : Byte) (n : Nat) : List Byte :=
  let h := [0xB7, 0x4E, kind, 0, 40] ++ be 2 n
  h ++ be 2 (crc16 h).toNat

theorem witness_AcceptedHeaderReservesAPlaceAndUsesACredit_headers :
    headerAccepts (headerBytesOf 2 12288) = true ∧ headerAccepts (headerBytesOf 2 12289) = false ∧
    huntFor ([0xB7, 0x4E] ++ headerBytesOf 2 12289 ++ headerBytesOf 2 0 ++ [9]) = some (headerBytesOf 2 0, [9]) := by decide +kernel

def parcelOf (kind : Byte) (body : List Byte) : Parcel := ⟨kind, 0x30, 40, body, 0, crc32 body⟩

theorem witness_TakenWholeFillsTheReservedPlace_kinds :
    ([1, 2, 3, 4, 5, 6, 0].map (fun k => classOf 3 (parcelOf k [])) = [.audio, .mark, .posted, .posted, .request, .foreign, .foreign] ∧
      [3, 4, 5].map (fun k => classOf 2 (parcelOf k [])) = [.foreign, .foreign, .foreign] ∧
      (parcelOf 3 []).addr.extractLsb' 4 4 = (3 : BitVec 4)) ∧
    (∀ p ∈ [parcelOf 2 (List.replicate 20 0), parcelOf 3 (cueloadBody 0), parcelOf 3 (cueloadBody 2), parcelOf 5 [0, 1, 2, 0, 0],
        parcelOf 5 [0, 1, 2, 0, 1, 9]], lengthSound p = true ∧ crc32 p.body = p.bodyCheck) ∧
    (∀ p ∈ [parcelOf 2 (List.replicate 19 0), parcelOf 3 [0], parcelOf 3 (cueloadBody 2).dropLast, parcelOf 5 [0, 1, 2, 0],
        parcelOf 5 [0, 1, 2, 0, 1]], lengthSound p = false) ∧
    (cueloadRecords (cueloadBody 0) = some [] ∧ cueloadRecords (cueloadBody 2) = some [withdrawRecord 14, withdrawRecord 14]) ∧
    (corruptIn .foreign ⟨6, 0, 40, [], 0, 1⟩ = false ∧ corruptIn .mark ⟨2, 0, 40, List.replicate 20 0, 0, 1⟩ = true) := by
  decide +kernel

/-- One clip that holds `n` pages of the pool. -/
def poolClip (n : Nat) : Clip := ⟨0, 9, 3000, List.replicate n (some []), none⟩
def wholePool : Clip := poolClip 16384

theorem pages_poolClip (n : Nat) : (poolClip n).pagesPresent = n := by
  simp [poolClip, Clip.pagesPresent, List.countP_replicate]

theorem pages_wholePool : wholePool.pagesPresent = 16384 := pages_poolClip 16384

theorem witness_NarrationPageIsStoredOrRefused_refusals :
    (pageBody 2999 3000 1).length = 970 ∧
    (∀ b ∈ [pageBody 0 0 480, pageBody 0 3001 480, pageBody 2 2 480, pageBody 1 2 0, pageBody 1 2 481, pageBody 0 2 479],
      let g := pageOf b;
      g.declared = 0 ∨ 3000 < g.declared ∨ g.declared ≤ g.index ∨ g.valid = 0 ∨ 480 < g.valid ∨
        (g.index + 1 ≠ g.declared ∧ g.valid ≠ 480)) ∧
    (let s := { withClip ad0 clip0 with loading := some (.narration (page 0 3 480) 9) };
      s.clip? 0 700 = some clip0 ∧ clip0.declared ≠ (pageOf (page 0 3 480).body).declared) ∧
    (let s := { base with clips := (List.range 512).map fun i => ⟨0, i + 1000, 1, [none], none⟩ };
      s.clip? 0 700 = none ∧ 512 ≤ s.clips.length) ∧
    (({ base with clips := [wholePool] } : State).clip? 0 700 = none ∧ 16384 ≤ ({ base with clips := [wholePool] } : State).pagesInUse ∧
      ({ base with clips := [clip0, wholePool] } : State).clip? 0 700 = some clip0 ∧ clip0.present 1 = false ∧
      16384 ≤ ({ base with clips := [clip0, wholePool] } : State).pagesInUse) ∧
    (let s := { stateOf { prog0 with state := .halted } sub0 ad0 with loading := some (.narration (page 0 2 480) 9) };
      s.loading = some (.narration (page 0 2 480) 9) ∧ s.prog (page 0 2 480).slot = some { prog0 with state := .halted }) :=
  ⟨by decide +kernel, by decide +kernel, by decide +kernel, by decide +kernel,
    ⟨by decide +kernel, by simp [State.pagesInUse, pages_wholePool], by decide +kernel, by decide +kernel,
      by simp [State.pagesInUse, pages_wholePool]⟩, by decide +kernel⟩

theorem witness_AudioTakeMovesTheLineAndJudges_draining :
    let r : Programme := { prog0 with state := .draining }
    let s := queued r copy0
    s.audio = none ∧ s.audioQ = copy0 :: [] ∧ s.prog copy0.prog = some r ∧ r.stream = copy0.stream ∧ r.state = .draining ∧
    (r.tracks.filter fun t => (s.track t).any fun x => x.state == .active && x.ad?.isSome) = [1] := by decide +kernel

theorem witness_CopyRenderingsEqualTheProgramme_samples : copy0.body.length = 1928 := List.length_replicate

theorem witness_RequestsAreJudgedByTheirProgramme_lengths :
    (CanTake (asked prog0 sub0 ad0 0x01 [0]) (ask 0x01 [0]) [] 0x01 ∧ (ask 0x01 [0]).params.length ≠ 0) ∧
    (CanTake (asked prog0 sub0 ad0 0x10 [0]) (ask 0x10 [0]) [] 0x10 ∧ (ask 0x10 [0]).params.length ≠ 0) ∧
    (CanTake { State.reset with requestQ := [ask 0x02 []] } (ask 0x02 []) [] 0x02 ∧ State.reset.prog 0 = none ∧
      (ask 0x02 []).params.length ≠ 18) ∧
    (CanTake (asked prog0 sub0 ad0 0x08 [0, 1]) (ask 0x08 [0, 1]) [] 0x08 ∧
      (ask 0x08 [0, 1]).params.length ≠ 2 + 6 * (byteAt (ask 0x08 [0, 1]).params 1).toNat) ∧
    (CanTake (asked prog0 sub0 ad0 0x09 []) (ask 0x09 []) [] 0x09 ∧ prog0.takes ∧ prog0.state = .active) ∧
    (∀ ps ∈ [[], [2, 0], [0], [0, 0, 0]], CanTake (asked prog0 sub0 ad0 0x0E ps) (ask 0x0E ps) [] 0x0E ∧ ps.head? ≠ some (1 : Byte) ∧
      (ps.head? ≠ some (0 : Byte) ∨ ps.length ≠ 2)) ∧
    (∀ ps ∈ [[1], [1, 0, 0]], CanTake (asked prog0 sub0 ad0 0x0E ps) (ask 0x0E ps) [] 0x0E ∧ ps.head? = some (1 : Byte) ∧
      ps.length ≠ 2) :=
  ⟨⟨can_asked _ _ _ _ _, by decide⟩, ⟨can_asked _ _ _ _ _, by decide⟩, ⟨⟨rfl, rfl, rfl, rfl, by decide⟩, rfl, by decide⟩,
    ⟨can_asked _ _ _ _ _, by decide⟩, ⟨can_asked _ _ _ _ _, takes_prog0, rfl⟩,
    fun ps h => ⟨can_asked _ _ _ _ _, by revert ps; decide⟩, fun ps h => ⟨can_asked _ _ _ _ _, by revert ps; decide⟩⟩

/-- The bytes 64, of a FREE slot and of another programme's track name no track. -/
theorem witness_names_no_track :
    base.NamesNoTrack 0 64 ∧ base.NamesNoTrack 0 63 ∧ base.NamesNoTrack 1 0 :=
  ⟨.inl (by decide), .inr ⟨63, rfl, .inl rfl⟩, .inr ⟨0, rfl, .inr ⟨subRec sub0, rfl, by decide⟩⟩⟩

/-- OPEN-PROGRAMME's parameters by field, of stream 40. -/
def openWith (n d origin threshold : Nat) (escalation : Byte) : List Byte :=
  [40] ++ be 4 n ++ be 2 d ++ be 8 origin ++ be 2 threshold ++ [escalation]

theorem witness_SetProgrammeWritesThresholdAndEscalation_ranges :
    (∀ ps ∈ [openWith 0 1 0 0 0, openWith 240001 1 0 0 0, openWith 1 0 0 0 0, openWith 1 1 (maxTick + 1) 0 0, openWith 1 1 0 32768 0,
        openWith 1 1 0 0 1, openWith 1 1 0 0 2, openWith 1 1 0 0 0x80], ps.length = 18 ∧
      (fieldAt ps 1 4 = 0 ∨ 240000 < fieldAt ps 1 4 ∨ fieldAt ps 5 2 = 0 ∨ maxTick < fieldAt ps 7 8 ∨ 32767 < fieldAt ps 15 2 ∨
        (byteAt ps 17).getLsbD 0 = true ∨ (byteAt ps 17).getLsbD 1 = true ∨ (byteAt ps 17).getLsbD 7 = true)) ∧
    ∀ ps, CanTake { State.reset with requestQ := [ask 0x02 ps] } (ask 0x02 ps) [] 0x02 ∧ State.reset.prog 0 = none :=
  ⟨by decide +kernel, fun _ => ⟨⟨rfl, rfl, rfl, rfl, Nat.succ_pos 15⟩, rfl⟩⟩

/-- Programme 0 with eight SUB tracks, every slot of the part taken. -/
def crowdedPart (name : Byte) (params : List Byte) : State :=
  { asked { prog0 with tracks := List.finRange 64 |>.take 8 } sub0 ad0 name params with
    tracks := Vector.replicate 64 (some (subRec sub0)) }

theorem witness_OpenTrackTakesTheLowestFreeSlot_refusals :
    ((∀ ps ∈ [0 :: adParams.tail, [2, 51, 0] ++ adParams.drop 3, [2, 51, 9] ++ adParams.drop 3, adParams.take 3 ++ [0x1F] ++ adParams.drop 4,
        adParams.dropLast ++ [51], adParams.take 13 ++ be 2 32769 ++ adParams.drop 15], ps.length = 19 ∧ trackParamsOf ps = none) ∧
      (subParams 1).length = 19 ∧ (asked prog0 sub0 ad0 0x06 (subParams 1)).sub? 1 = none) ∧
    (let s := crowdedPart 0x06 (subParams 0);
      CanTake s (ask 0x06 (subParams 0)) [] 0x06 ∧ (∀ u, s.track u ≠ none) ∧
      8 ≤ (({ prog0 with tracks := List.finRange 64 |>.take 8 } : Programme).tracks.filter fun u => (s.sub? u).isSome).length) :=
  ⟨by decide +kernel, ⟨rfl, rfl, rfl, rfl, by simp [crowdedPart, asked]⟩, by decide +kernel, by decide +kernel⟩

theorem witness_LoadStyleReplacesTheTable_entries :
    (let es : List Style := [⟨.left, .top, 15, .shadow, .large, true⟩, ⟨.right, .bottom, 0, .none, .small, false⟩];
      (∀ e ∈ es, e.colour ≤ 15) ∧ (es.flatMap styleOnLane).length = 6 * (2 : Byte).toNat ∧ (2 : Byte).toNat = es.length ∧
      after .loadStyle (asked prog0 sub0 ad0 0x08 (0 :: 2 :: es.flatMap styleOnLane))
        (fun t => (t.sub? 0).any fun b => b.styles == .loaded es) = true) ∧
    (StyleOutOfRange [3, 0, 0, 0, 0, 0] 0 ∧ StyleOutOfRange [0, 2, 0, 0, 0, 0] 0 ∧ StyleOutOfRange [0, 0, 16, 0, 0, 0] 0 ∧
      StyleOutOfRange [0, 0, 0, 3, 0, 0] 0 ∧ StyleOutOfRange [0, 0, 0, 0, 3, 0] 0 ∧
      StyleOutOfRange ([0, 0, 0, 0, 0, 0] ++ [0, 0, 0, 0, 0, 2]) 1) ∧
    (32 < (33 : Byte).toNat ∧ (List.replicate 198 (0 : Byte)).length = 6 * (33 : Byte).toNat) ∧
    ((asked prog0 sub0 ad0 0x08 []).track 1 = some (adRec ad0) ∧ (∃ a, (adRec ad0).body = .ad a) ∧ (adRec ad0).state ≠ .closing ∧
      (base.setTrack 0 (some { subRec sub0 with state := .closing })).track 0 = some { subRec sub0 with state := .closing }) :=
  ⟨by decide +kernel, by unfold StyleOutOfRange; decide, ⟨by decide, by decide +kernel⟩, rfl, ⟨ad0, rfl⟩, by decide, rfl⟩

theorem witness_ConcealSpanClearsItsWindow_refusals :
    ((ask 0x09 (spanParams 0 0)).params.length = 17 ∧ (ask 0x0A (untilParams 0)).params.length = 9) ∧
    CanTake (asked prog0 sub0 ad0 0x0A (1 :: be 8 0)) (ask 0x0A (1 :: be 8 0)) [] 0x0A ∧ (adRec ad0).body = .ad ad0 ∧
    (asked prog0 sub0 ad0 0x0A (1 :: be 8 0)).track 1 = some (adRec ad0) ∧
    (concealingRec ⟨0, none, .untilResume⟩).state = .concealing ∧ maxTick < fieldAt (untilParams (maxTick + 1)) 1 8 ∧
    maxTick < fieldAt (spanParams 0 (maxTick + 1)) 9 8 :=
  ⟨⟨by decide +kernel, by decide +kernel⟩, can_asked _ _ _ _ _, rfl, rfl, rfl, by decide +kernel, by decide +kernel⟩

theorem witness_SetEgressPendsAndUnknownNamesAreRange_ranges :
    ∀ ps ∈ [([2, 0, 0, 0, 0, 0, 0, 0, 0] : List Byte), [0, 2, 0, 0, 0, 0, 0, 0, 0], [0, 0, 0, 1, 0, 0, 0, 0, 0],
        [0, 0, 0, 0, 0, 0, 0, 1, 9]], ps.length = 9 ∧
      (1 < (byteAt ps 0).toNat ∨ ∃ i ∈ [1, 3, 5, 7], 1 < (byteAt ps i).toNat ∨
        (byteAt ps i = 1 ∧ (byteAt ps (i + 1) = 0 ∨ 8 < (byteAt ps (i + 1)).toNat))) := by decide

/-! What every step keeps: each invariant holds in `base`, which has a programme and two tracks, and `base` steps to a next state -/

theorem witness_StepKeepsQueuesWithinCapacity : WithinCapacity base ∧ step base = .next base := by
  refine ⟨?_, rfl⟩
  unfold WithinCapacity
  decide +kernel

theorem witness_StepKeepsTheArbiterSound : ArbiterSound base ∧ step base = .next base := by
  refine ⟨⟨by decide, by decide, by decide, ⟨trivial, trivial, trivial, trivial⟩, ?_, ?_⟩, rfl⟩
  · intro x h; cases h
  · intro g h; cases h

theorem witness_StepKeepsProgrammesSound : ProgrammesSound base ∧ step base = .next base := by
  refine ⟨?_, rfl⟩
  have h : ∀ p, ∀ r ∈ base.prog p, r = prog0 := by decide +kernel
  intro p r hr
  rw [h p r hr]
  refine ⟨⟨⟨fun h => (by cases h), fun ⟨d, h, _⟩ => (by cases h)⟩, fun h => (by cases h), fun ⟨d, h, _⟩ => (by cases h)⟩, ?_⟩
  unfold Programme.inRange
  decide +kernel

theorem witness_StepKeepsStreamsDistinct : StreamsDistinct base ∧ step base = .next base := by
  refine ⟨⟨?_, ?_, ?_⟩, rfl⟩
  · have h : ∀ p p', ∀ r ∈ base.prog p, ∀ r' ∈ base.prog p', r.stream = r'.stream → p = p' := by decide +kernel
    exact fun p p' r r' hr hr' => h p p' r hr r' hr'
  · have h : ∀ t t', ∀ x ∈ base.track t, ∀ x' ∈ base.track t', x.stream = x'.stream → t = t' := by decide +kernel
    exact fun t t' x x' hx hx' => h t t' x hx x' hx'
  · have h : ∀ p t, ∀ r ∈ base.prog p, ∀ x ∈ base.track t, r.stream ≠ x.stream := by decide +kernel
    exact fun p t r x hr hx => h p t r hr x hx

theorem witness_StepKeepsCueListsOrdered :
    (let s := stateOf prog0 loadsSub { ad0 with cues := [headCue 900 900 1] };
      ListsOrdered s ∧ step s = .next s) := by
  refine ⟨⟨?_, ?_⟩, rfl⟩
  · have h : ∀ t, ∀ b ∈ (stateOf prog0 loadsSub { ad0 with cues := [headCue 900 900 1] }).sub? t, b = loadsSub := by decide +kernel
    intro t b hb
    rw [h t b hb]
    unfold SubTrack.ordered
    decide +kernel
  · have h : ∀ t, ∀ b ∈ (stateOf prog0 loadsSub { ad0 with cues := [headCue 900 900 1] }).ad? t,
        b = { ad0 with cues := [headCue 900 900 1] } := by decide +kernel
    intro t b hb
    rw [h t b hb]
    unfold AdTrack.ordered
    decide +kernel

theorem witness_StepKeepsTablesAgreedAndNoCueBehindTheCutLine :
    (let s := stateOf prog0 loadsSub ad0;
      TablesAgree s ∧ CuesEndAfterCutLine s ∧ step s = .next s) := by
  have hp : ∀ p, ∀ r ∈ (stateOf prog0 loadsSub ad0).prog p, p = 0 ∧ r = prog0 := by decide +kernel
  have ht : ∀ t, ∀ x ∈ (stateOf prog0 loadsSub ad0).track t, (t = 0 ∧ x = subRec loadsSub) ∨ (t = 1 ∧ x = adRec ad0) := by
    decide +kernel
  refine ⟨⟨?_, ?_, ?_⟩, ?_, rfl⟩
  · intro p r hr
    obtain ⟨rfl, rfl⟩ := hp p r hr
    refine ⟨by decide, fun t => ⟨fun h => ?_, fun ⟨x, hx, _⟩ => ?_⟩⟩
    · have h : t = 0 ∨ t = 1 := by simpa [prog0, freshProgramme] using h
      rcases h with rfl | rfl
      · exact ⟨subRec loadsSub, rfl, rfl⟩
      · exact ⟨adRec ad0, rfl, rfl⟩
    · rcases ht t x hx with ⟨rfl, _⟩ | ⟨rfl, _⟩ <;> decide
  · intro t x hx
    rcases ht t x hx with ⟨rfl, rfl⟩ | ⟨rfl, rfl⟩ <;> decide +kernel
  · intro p r d t hr hd
    obtain ⟨rfl, rfl⟩ := hp p r hr
    cases hd
  · intro p r t x b hr hx _ hb
    obtain ⟨rfl, rfl⟩ := hp p r hr
    rcases ht t x hx with ⟨rfl, rfl⟩ | ⟨rfl, rfl⟩
    · cases hb; decide
    · cases hb

end Sys2Proof.Tests
end

