-- ==== Sys2Proof/Proofs/Mixer.lean ====
section
/-! PROOF. The mixer (spec chapter 8): what AD_AUDIO_PLACED writes for a track it renders, when a rendering leaves the tables as
they stand, the samples of a copy in an AD-AUDIO body, the range and the rounding of the accumulator. -/

namespace Sys2Proof.Machine

/-! ### Placing a rendering -/

theorem exec_adAudioPlaced_eq (s : State) : exec .adAudioPlaced s = execAdAudioPlaced s := rfl

theorem Track.ad?_of_body {x : Track} {a : AdTrack} (h : x.body = .ad a) : x.ad? = some a := by
  simp only [Track.ad?, h]

theorem State.mixRoom_of_lt {s : State} (h : s.egress.mix.length < 32) : s.mixRoom = true :=
  decide_eq_true h

/-- With no rendering held, the current parcel ends when no track is left to render or to step (R98, R99). -/
theorem State.continueAudio_of_rendered_none {s : State} {w : AudioWork} (h : w.rendered = none) :
    s.continueAudio w = { s with audio := if w.toRender = [] ∧ w.toStep = [] then none else some w } := by
  simp only [State.continueAudio, h, Option.isNone_none, Bool.and_true, Bool.and_eq_true, List.isEmpty_iff]

/-- A rendering writes the tables alone. -/
@[simp] theorem State.writeRendering_egress (s : State) (w : AudioWork) (t : TrackSlot) (a : AdTrack) :
    (s.writeRendering w t a).egress = s.egress := by
  unfold State.writeRendering
  split <;> rfl

/-- A served track is rendered, and its parcel takes the place at the tail of MIX (R117). -/
theorem AtRendering.exec_adAudioPlaced {s : State} {w : AudioWork} {t : TrackSlot} {rest : List TrackSlot} {x : Track} {a : AdTrack}
    {r : Programme} (h : AtRendering s w t rest x a r) :
    exec .adAudioPlaced s = .next { s.writeRendering w t a with
      egress := { s.egress with mix := s.egress.mix ++ [s.adAudioOf w t x a] }
      audio := if rest = [] ∧ w.toStep = [] then none else some { w with toRender := rest } } := by
  obtain ⟨haudio, hrendered, htoRender, htrack, hbody, -, -, hroom⟩ := h
  have hplace : (s.writeRendering w t a).mixRoom = true := State.mixRoom_of_lt (by rwa [State.writeRendering_egress])
  have hw : ({ w with toRender := rest, rendered := none } : AudioWork) = { w with toRender := rest } := by rw [hrendered]
  simp only [exec_adAudioPlaced_eq, execAdAudioPlaced, haudio, hrendered, htoRender, htrack, Track.ad?_of_body hbody,
    State.placeMix, hplace, if_true, State.continueAudio_of_rendered_none, State.writeRendering_egress, hw]

/-! ### What a rendering writes -/

/-- Counting no clipped sample leaves a counter in its range as it is. -/
theorem bump32_zero {n : Nat} (h : n ≤ 4294967295) : bump32 n 0 = n := Nat.min_eq_right h

/-- A rendering that keeps the current gain and clips nothing writes neither table (R118, R124). -/
theorem AtRendering.writeRendering_eq_self {s : State} {w : AudioWork} {t : TrackSlot} {rest : List TrackSlot} {x : Track}
    {a : AdTrack} {r : Programme} (h : AtRendering s w t rest x a r) (hgain : w.takenIn = .active → a.gainAfter = a.gain)
    (hclipped : (s.render w a).clipped = 0) : s.writeRendering w t a = s := by
  obtain ⟨-, -, -, htrack, hbody, hprog, hcount, -⟩ := h
  have htracks : (if w.takenIn = .active then s.modAd t fun b => { b with gain := a.gainAfter } else s) = s := by
    split
    next hactive =>
      rw [State.modAd_of_ad htrack hbody, hgain hactive]
      exact State.setTrack_of_eq (by rw [htrack, ← hbody])
    next => rfl
  rw [State.writeRendering, htracks, hclipped, State.countIn, State.modProg_of_some hprog, bump32_zero hcount]
  exact State.setProg_of_eq hprog

/-- A whole copy is rendered COPY from an IDLE engine, and flagged HALTED from every engine when taken in HALTED or DRAINING
(R118, R124). -/
theorem State.render_copy {s : State} {w : AudioWork} {a : AdTrack} (hwhole : w.copy.substituted = false)
    (hidle : w.takenIn = .active → a.engine = .idle) :
    s.render w a = ⟨.copy, none, decide (w.takenIn ≠ .active), false, 0, w.copy.samples⟩ := by
  by_cases hactive : w.takenIn = .active
  · simp [State.render, State.renderEngine, hactive, hwhole, hidle hactive]
  · simp [State.render, hactive, hwhole]

/-! ### Samples, accumulator and clamp (R119, R120) -/

theorem Sample.toInt_mem (p : Sample) : -32768 ≤ p.toInt ∧ p.toInt ≤ 32767 :=
  ⟨p.le_toInt, Int.le_of_lt_add_one p.toInt_lt⟩

/-- A sample scaled by a gain up to 32,768 lies in the range of a sample times 32,768. -/
theorem Sample.scaled_mem (p : Sample) {g : Nat} (hg : g ≤ 32768) :
    -32768 * 32768 ≤ p.toInt * g ∧ p.toInt * g ≤ 32767 * 32768 := by
  obtain ⟨hlo, hhi⟩ := Sample.toInt_mem p
  have hg0 : (0 : Int) ≤ g := Int.natCast_nonneg g
  constructor
  · calc (-32768 * 32768 : Int) ≤ -32768 * g := by omega
      _ ≤ p.toInt * g := mul_le_mul_of_nonneg_right hlo hg0
  · calc p.toInt * g ≤ 32767 * g := mul_le_mul_of_nonneg_right hhi hg0
      _ ≤ 32767 * 32768 := by omega

theorem clampSample_toInt (p : Sample) : clampSample p.toInt = p := by
  obtain ⟨hlo, hhi⟩ := Sample.toInt_mem p
  rw [clampSample, if_neg (by omega), if_neg (by omega), BitVec.ofInt_toInt]

theorem outOfRange_toInt (p : Sample) : outOfRange p.toInt = false := by
  obtain ⟨hlo, hhi⟩ := Sample.toInt_mem p
  simp [outOfRange, hlo, hhi]

/-- The output before the clamp as the spec writes it (R119). -/
theorem mixSample_eq_floor (p q : Sample) (g gn : Nat) :
    mixSample p q g gn = Int.floor (((p.toInt * g + q.toInt * gn + 16384 : Int) : ℚ) / 32768) :=
  (Rat.floor_intCast_div_natCast _ 32768).symm

/-- Full gain without narration: (32,768 × p + 16,384) / 32,768 rounded down is p (R118). -/
theorem mixSample_full_gain (p : Sample) (gn : Nat) : mixSample p 0 32768 gn = p.toInt := by
  have hq : (0 : Sample).toInt = 0 := rfl
  rw [mixSample, hq]
  omega

/-! ### The AD-AUDIO body (R164) -/

theorem flagByte_three (a b c : Bool) : flagByte [a, b, c] = a.toNat + 2 * b.toNat + 4 * c.toNat := by
  simp only [flagByte]
  omega

theorem byteAt_drop (bs : List Byte) (n i : Nat) : byteAt (bs.drop n) i = byteAt bs (n + i) := by
  simp [byteAt]

/-- The samples of a whole PROG-AUDIO body stand after its tick, two bytes each (R163). -/
theorem AudioCopy.samples_spec (c : AudioCopy) (h : c.body.length = 1928) : c.samples.length = 960 ∧
    (c.samples.flatMap fun y => be 2 y.toNat) = c.body.drop 8 ∧
    ∀ i, i < 960 → c.samples[i]? = some (byteAt c.body (8 + 2 * i) ++ byteAt c.body (9 + 2 * i)) := by
  obtain ⟨hlength, hbytes, hsample⟩ := samplesOf_spec 960 (c.body.drop 8) (by simp [h])
  refine ⟨hlength, hbytes, fun i hi => ?_⟩
  rw [AudioCopy.samples, hsample i hi, byteAt_drop, byteAt_drop, show 8 + (2 * i + 1) = 9 + 2 * i by omega]

/-! ### The statements -/

/-- Settles O29: a COPY rendering keeps the gain and clips nothing, so it writes neither table and AD_AUDIO_PLACED moves the
queues alone. -/
theorem copyRenderingsEqualTheProgramme : Obligations.CopyRenderingsEqualTheProgramme := by
  unfold Obligations.CopyRenderingsEqualTheProgramme
  refine ⟨?placed, ?fullGain, ?bytes, AudioCopy.samples_spec⟩
  case placed =>
    intro s w t rest x a r h hwhole hcase
    have hidle : w.takenIn = .active → a.engine = .idle := by
      intro hactive
      rcases hcase with ⟨-, hidle⟩ | hhalted | hdraining
      · exact hidle
      · exact absurd (hactive.symm.trans hhalted) (by decide)
      · exact absurd (hactive.symm.trans hdraining) (by decide)
    have hrender := State.render_copy (s := s) hwhole hidle
    have hwrite : s.writeRendering w t a = s :=
      h.writeRendering_eq_self (fun hactive => by rw [AdTrack.gainAfter, hidle hactive]) (by rw [hrender])
    refine ⟨_, h.exec_adAudioPlaced, ?_⟩
    rw [hwrite, State.adAudioOf, hrender]
    exact ⟨rfl, rfl, fun _ => rfl, fun _ => rfl, rfl⟩
  case fullGain =>
    intro p gn
    rw [mixSample_full_gain]
    exact ⟨clampSample_toInt p, outOfRange_toInt p⟩
  case bytes =>
    intro unit p t stream tag tick x
    rw [adAudioParcel, makeParcel_bytes, adAudioBody, tagBytes, flagByte_three]
    simp only [List.append_assoc]
    cases x.kind <;> rfl

/-- Settles O32: each product lies in the range of a sample times 32,768, the floor of the quotient is integer division, and the
mixer's recursion takes a frame's two samples at once. -/
theorem accumulatorRoundsToNearestHalfUp : Obligations.AccumulatorRoundsToNearestHalfUp := by
  unfold Obligations.AccumulatorRoundsToNearestHalfUp
  refine ⟨fun p q g gn hg hgn => ?_, by decide, by decide, by decide, by decide, by decide, fun _ _ _ _ _ _ _ => rfl⟩
  obtain ⟨hplo, hphi⟩ := Sample.scaled_mem p hg
  obtain ⟨hqlo, hqhi⟩ := Sample.scaled_mem q hgn
  exact ⟨by omega, by omega, mixSample_eq_floor p q g gn⟩

end Sys2Proof.Machine
end

