-- ==== Sys2Proof/Proofs/EgressCredit.lean ====
section
/-! PROOF. The egress arbiter's credit (spec chapter 10, R141): what GRANT and PARCEL_LEFT can do, and what each leaves in the
credit counter. -/

namespace Sys2Proof.Machine

/-! ### The commands of the arbiter -/

theorem exec_grant_eq (s : State) : exec .grant s = .next { s with egress := s.egress.makeGrant } := rfl

theorem exec_egressCredit_eq (s : State) :
    exec .egressCredit s = .next { s with egress := { s.egress with credit := min 255 (s.egress.credit + 1) } } := rfl

@[simp] theorem State.afterReset_egress (straps : BitVec 4) (l : Lanes) (cs : List Instr) :
    (State.afterReset straps l cs).egress = .reset := rfl

theorem exec_powerOn_eq (straps : BitVec 4) (s : State) : exec (.powerOn straps) s = .next (s.resetAtOnce straps) := rfl

theorem exec_resetPin_eq (straps : BitVec 4) (s : State) : exec (.resetPin straps) s = .next (s.resetAtOnce straps) := rfl

@[simp] theorem State.resetAtOnce_egress (s : State) (straps : BitVec 4) : (s.resetAtOnce straps).egress = .reset := rfl

/-! ### A parcel being sent (R140) -/

theorem Egress.sending?_ne_none_iff (e : Egress) :
    e.sending? ≠ none ↔ ∃ g p, e.grant = some g ∧ e.head? g.requester = some p := by
  rw [Option.ne_none_iff_exists']
  simp only [Egress.sending?, Option.bind_eq_some_iff]
  exact exists_comm

/-- The leaving of a parcel being sent: that of the UNIT-RESET reply is the unit reset (R28, R160), any other moves the arbiter. -/
theorem exec_parcelLeft_of_sending {s : State} {g : Grant} {p : Parcel} (straps : BitVec 4)
    (hgrant : s.egress.grant = some g) (hhead : s.egress.head? g.requester = some p) :
    exec (.parcelLeft straps) s = .next (if g.requester = .ctl ∧ s.egress.resetReplyAtHead = true then
        State.afterReset straps (s.lanes.send (.whole p)) s.pending
      else { s with egress := s.egress.afterLeaving g, lanes := s.lanes.send (.whole p) }) := by
  change execParcelLeft straps s = _
  simp only [execParcelLeft, hgrant, hhead]
  split <;> rfl

/-- What the leaving of a parcel can make of the arbiter: the fresh one of a unit reset, or the grant's own next. -/
theorem egress_of_exec_parcelLeft {s t : State} {straps : BitVec 4} (hsending : s.egress.sending? ≠ none)
    (h : exec (.parcelLeft straps) s = .next t) :
    t.egress = .reset ∨ ∃ g, s.egress.grant = some g ∧ t.egress = s.egress.afterLeaving g := by
  obtain ⟨g, p, hgrant, hhead⟩ := s.egress.sending?_ne_none_iff.mp hsending
  rw [exec_parcelLeft_of_sending straps hgrant hhead, Host.Outcome.next.injEq] at h
  split at h <;> subst h
  · exact .inl rfl
  · exact .inr ⟨g, hgrant, rfl⟩

/-- With the UNIT-RESET reply being sent, the leaving is the unit reset (R148, R160). -/
theorem exec_parcelLeft_of_unitResetReply {s : State} {g : Grant} {p : Parcel} {rest : List CtlPlace} (straps : BitVec 4)
    (hgrant : s.egress.grant = some g) (hctl : g.requester = .ctl) (hreply : s.egress.ctl = .unitResetReply p :: rest) :
    exec (.parcelLeft straps) s = .next (State.afterReset straps (s.lanes.send (.whole p)) s.pending) := by
  have hhead : s.egress.head? g.requester = some p := by simp [hctl, Egress.head?, hreply, CtlPlace.parcel?]
  have hreset : s.egress.resetReplyAtHead = true := by simp [Egress.resetReplyAtHead, hreply]
  rw [exec_parcelLeft_of_sending straps hgrant hhead, if_pos ⟨hctl, hreset⟩]

/-! ### A grant is made, goes on or ends (R142) -/

/-- Either policy chooses a ready requester (R142 to R144). -/
theorem Egress.ready_of_choose {e : Egress} {policy : Policy} {counts : PerRequester Nat} {r : Requester}
    (h : e.choose policy counts = some r) : e.ready r = true := by
  cases policy with
  | rotate => exact List.find?_some h
  | fixed =>
    rcases Option.or_eq_some_iff.mp h with hguard | ⟨-, hfirst⟩
    · have hboth := List.find?_some (p := fun x => e.ready x && counts.get x == Config.passOverLimit) hguard
      exact (Bool.and_eq_true_iff.mp hboth).1
    · exact List.find?_some hfirst

/-- What the arbiter can do at GRANT: nothing, or, with no grant in force and credit left, grant to a ready requester. -/
theorem Egress.makeGrant_cases (e : Egress) :
    e.makeGrant = e ∨ e.grant = none ∧ e.credit ≠ 0 ∧ ∃ r, e.ready r = true ∧ e.makeGrant = e.grantTo r := by
  unfold Egress.makeGrant
  split
  case isTrue => exact .inl rfl
  case isFalse hfree =>
    obtain ⟨hgrant, hcredit⟩ : e.grant = none ∧ e.credit ≠ 0 := by simpa using hfree
    split
    next => exact .inl rfl
    next r hchoose => exact .inr ⟨hgrant, hcredit, r, Egress.ready_of_choose hchoose, rfl⟩

/-- With a grant in force, no credit or no ready requester, no grant is made. -/
theorem Egress.makeGrant_eq_self {e : Egress} (h : e.grant ≠ none ∨ e.credit = 0 ∨ ∀ r, e.ready r = false) :
    e.makeGrant = e := by
  rcases e.makeGrant_cases with hself | ⟨hgrant, hcredit, r, hready, -⟩
  · exact hself
  · rcases h with hforce | hzero | hnone
    · exact absurd hgrant hforce
    · exact absurd hzero hcredit
    · exact absurd hready (by simp [hnone r])

/-- A grant that is made begins a parcel, which takes one credit. -/
theorem Egress.makeGrant_credit {e : Egress} (h : e.makeGrant.grant ≠ e.grant) : e.makeGrant.credit + 1 = e.credit := by
  rcases e.makeGrant_cases with hself | ⟨-, hcredit, r, -, hmade⟩
  · exact absurd (congrArg Egress.grant hself) h
  · rw [hmade]
    exact Nat.succ_pred hcredit

@[simp] theorem Egress.pop_credit (e : Egress) (r : Requester) : (e.pop r).credit = e.credit := by
  cases r <;> rfl

/-- After a leaving the grant goes on, with allowance, a placed head and credit left, and its next parcel takes one credit; or
it ends and the credit stands. -/
theorem Egress.afterLeaving_cases (e : Egress) (g : Grant) :
    (g.sent + 1 < g.allowance ∧ (e.pop g.requester).ready g.requester = true ∧ e.credit ≠ 0 ∧
      e.afterLeaving g
        = { e.pop g.requester with grant := some { g with sent := g.sent + 1 }, credit := e.credit - 1 }) ∨
    e.afterLeaving g = { e.pop g.requester with grant := none } := by
  unfold Egress.afterLeaving
  dsimp only
  split
  case isTrue hon =>
    simp only [Egress.goesOn, Egress.pop_credit, Bool.and_eq_true, decide_eq_true_eq, bne_iff_ne] at hon
    obtain ⟨⟨hallowance, hready⟩, hcredit⟩ := hon
    exact .inl ⟨hallowance, hready, hcredit, by rw [Egress.pop_credit]⟩
  case isFalse => exact .inr rfl

/-! ### The statement -/

/-- The credit after a leaving: the grant that goes on takes one, so it ends at 0; the grant that ends leaves the counter as it
stands, or at 0 when its parcel was the UNIT-RESET reply. -/
theorem credit_of_exec_parcelLeft {s t : State} {straps : BitVec 4} (hsending : s.egress.sending? ≠ none)
    (h : exec (.parcelLeft straps) s = .next t) :
    t.egress.grant ≠ none ∧ t.egress.credit + 1 = s.egress.credit ∨
      t.egress.grant = none ∧ (t.egress.credit = s.egress.credit ∨ t.egress.credit = 0) := by
  rcases egress_of_exec_parcelLeft hsending h with hreset | ⟨g, -, hleft⟩
  · rw [hreset]
    exact .inr ⟨rfl, .inr rfl⟩
  · rcases s.egress.afterLeaving_cases g with ⟨-, -, hcredit, hon⟩ | hend
    · rw [hleft, hon]
      exact .inl ⟨nofun, Nat.succ_pred hcredit⟩
    · rw [hleft, hend]
      exact .inr ⟨rfl, .inl (s.egress.pop_credit _)⟩

/-- Settles O12: the counter moves by one at a returned credit, at a grant made and at a grant that goes on, and every reset
brings the arbiter's reset state. -/
theorem egressCreditCountsParcelsAllowed : Obligations.EgressCreditCountsParcelsAllowed := by
  unfold Obligations.EgressCreditCountsParcelsAllowed
  refine ⟨fun s => ⟨?returned, ?saturated, rfl, ?noGrant⟩, ?granted, ?left, ?atOnce, ?unitReset⟩
  case returned =>
    intro hbelow
    rw [exec_egressCredit_eq, min_eq_right (by omega)]
  case saturated =>
    intro hfull
    rw [exec_egressCredit_eq, hfull, min_eq_left (by decide), ← hfull]
  case noGrant =>
    intro hwait
    rw [exec_grant_eq, Egress.makeGrant_eq_self hwait]
  case granted =>
    intro s t h hnew
    cases (exec_grant_eq s).symm.trans h
    exact Egress.makeGrant_credit hnew
  case left =>
    intro straps s t h hsending
    rcases credit_of_exec_parcelLeft hsending h with ⟨hon, hcredit⟩ | ⟨hend, hcredit⟩
    · exact ⟨fun _ => hcredit, fun hend => absurd hend hon, fun hzero => by omega⟩
    · exact ⟨fun hon => absurd hend hon, fun _ => hcredit, fun _ => hend⟩
  case atOnce =>
    rintro straps s t (h | h)
    · cases (exec_powerOn_eq straps s).symm.trans h
      exact congrArg Egress.credit (s.resetAtOnce_egress straps)
    · cases (exec_resetPin_eq straps s).symm.trans h
      exact congrArg Egress.credit (s.resetAtOnce_egress straps)
  case unitReset =>
    intro straps s t g p rest hgrant hctl hreply h
    cases (exec_parcelLeft_of_unitResetReply straps hgrant hctl hreply).symm.trans h
    exact congrArg Egress.credit (State.afterReset_egress ..)

end Sys2Proof.Machine
end

section
/-! PROOF. What a record, a queue and the arbiter can become within a command, and the moves of the part. -/

namespace Sys2Proof.Machine

/-! ### What a record can become -/

/-- A programme record is sound. -/
def Programme.Sound (r : Programme) : Prop := r.drainHeld ∧ r.inRange

/-- A programme record changes within its service: stream and track list stay, a deferred request stays or has been answered, and a
sound record stays sound. -/
structure Programme.Evolves (r r' : Programme) : Prop where
  stream : r'.stream = r.stream
  tracks : r'.tracks = r.tracks
  deferred : r'.deferred = r.deferred ∨ r'.deferred = none
  sound : r.Sound → r'.Sound

/-- A record that evolves and whose cut line stays. -/
def Programme.Serves (r r' : Programme) : Prop := r.Evolves r' ∧ r'.cutLine = r.cutLine

/-- A track record changes within its service: programme, stream and cue list stay. -/
structure Track.Evolves (x x' : Track) : Prop where
  prog : x'.prog = x.prog
  stream : x'.stream = x.stream
  subCues : x'.sub?.map (·.cues) = x.sub?.map (·.cues)
  adCues : x'.ad?.map (·.cues) = x.ad?.map (·.cues)

/-- A programme record changes in nothing that soundness speaks of. -/
theorem Programme.serves_of_eq {r r' : Programme} (hstream : r'.stream = r.stream) (htracks : r'.tracks = r.tracks)
    (hdeferred : r'.deferred = r.deferred) (hstate : r'.state = r.state) (hcut : r'.cutLine = r.cutLine)
    (hrange : r.inRange → r'.inRange) : r.Serves r' :=
  ⟨⟨hstream, htracks, .inl hdeferred, fun ⟨hd, hr⟩ => ⟨by
    rw [Programme.drainHeld, hdeferred, hstate]; exact hd, hrange hr⟩⟩, hcut⟩

theorem Programme.Serves.trans {r r' r'' : Programme} (h : r.Serves r') (h' : r'.Serves r'') : r.Serves r'' := by
  obtain ⟨⟨hs, ht, hd, hk⟩, hc⟩ := h
  obtain ⟨⟨hs', ht', hd', hk'⟩, hc'⟩ := h'
  refine ⟨⟨hs'.trans hs, ht'.trans ht, ?_, hk' ∘ hk⟩, hc'.trans hc⟩
  rcases hd' with hd' | hd'
  · rw [hd']; exact hd
  · exact .inr hd'

theorem Programme.serves_notice (r : Programme) (n : NoticeSlot) : r.Serves { r with notice := n } :=
  ⟨⟨rfl, rfl, .inl rfl, id⟩, rfl⟩

theorem Programme.serves_counters (r : Programme) (c : ProgCounters) : r.Serves { r with counters := c } :=
  ⟨⟨rfl, rfl, .inl rfl, id⟩, rfl⟩

theorem Programme.capture_eq (r : Programme) (f : Failure) : r.capture f =
    { r with firstError := (r.capture f).firstError, notice := (r.capture f).notice } := by
  unfold Programme.capture
  split <;> rfl

theorem Programme.serves_capture (r : Programme) (f : Failure) : r.Serves (r.capture f) := by
  rw [r.capture_eq f]
  exact ⟨⟨rfl, rfl, .inl rfl, id⟩, rfl⟩

/-- An ACTIVE programme that halts was in no drain, and its halt code goes with HALTED (R15). -/
theorem Programme.serves_escalate (r : Programme) (code : ResultCode) : r.Serves (r.escalate code) := by
  unfold Programme.escalate
  split
  next h =>
    obtain ⟨hactive, -⟩ := h
    refine ⟨⟨rfl, rfl, .inl rfl, fun ⟨⟨hdrain, hclose⟩, hrange⟩ => ⟨⟨?_, ?_⟩, ?_⟩⟩, rfl⟩
    · exact iff_of_false nofun fun hd => absurd (hactive.symm.trans (hdrain.mpr hd)) (by decide)
    · exact iff_of_false nofun fun hd => absurd (hactive.symm.trans (hclose.mpr hd)) (by decide)
    · obtain ⟨h1, h2, h3, h4, h5, h6, h7, -, -⟩ := hrange
      exact ⟨h1, h2, h3, h4, h5, h6, h7, nofun, fun _ => nofun⟩
  next => exact ⟨⟨rfl, rfl, .inl rfl, id⟩, rfl⟩

theorem Programme.serves_failureCount (r : Programme) {n : Nat} (hn : n ≤ 65535) : r.Serves { r with failureCount := n } :=
  Programme.serves_of_eq rfl rfl rfl rfl rfl fun ⟨h1, h2, _, h4⟩ => ⟨h1, h2, hn, h4⟩

theorem Programme.serves_post (r : Programme) (f : Failure) : r.Serves (r.post f) := by
  have hcount := r.serves_failureCount (n := satAdd 65535 r.failureCount 1) (min_le_left _ _)
  unfold Programme.post
  dsimp only
  split
  · exact hcount
  · split
    · exact hcount.trans ((Programme.serves_capture _ f).trans (Programme.serves_escalate _ _))
    · exact hcount.trans (Programme.serves_capture _ f)
    · exact hcount
    · exact hcount

theorem bumpRun_le (n : Nat) : bumpRun n ≤ 255 := min_le_left _ _

theorem bumpRun_mono {m n : Nat} (h : m ≤ n) : bumpRun m ≤ bumpRun n := by
  unfold bumpRun satAdd; omega

theorem Programme.serves_judged (r : Programme) (v : Verdict) : r.Serves (r.judged v) := by
  cases v
  case quiet =>
    exact Programme.serves_of_eq rfl rfl rfl rfl rfl fun ⟨h1, _, h3⟩ => ⟨bumpRun_mono h1, bumpRun_le _, h3⟩
  case marginal =>
    exact Programme.serves_of_eq rfl rfl rfl rfl rfl fun ⟨_, _, h3⟩ => ⟨Nat.zero_le _, bumpRun_le _, h3⟩
  case loud =>
    exact Programme.serves_of_eq rfl rfl rfl rfl rfl fun ⟨_, _, h3⟩ => ⟨le_refl _, Nat.zero_le _, h3⟩

/-- The tick of a taken copy lies in the tick range when the audio line does (R101). -/
theorem AudioCopy.taken_tick_le (c : AudioCopy) {line : Nat} (h : line ≤ maxTick) : c.taken.tick line ≤ maxTick := by
  have hnext : nextTick line ≤ maxTick := by unfold nextTick; split <;> assumption
  unfold AudioCopy.taken
  split
  next => simpa only [AudioCopy.tick, if_true] using hnext
  next hcarried =>
    unfold AudioCopy.tick
    split
    · exact hnext
    · exact Nat.le_of_not_lt hcarried

theorem Programme.serves_hear (r : Programme) (c : AudioCopy) : r.Serves (r.hear c.taken) := by
  refine Programme.Serves.trans ?_ (Programme.serves_judged _ _)
  exact Programme.serves_of_eq rfl rfl rfl rfl rfl fun ⟨h1, h2, h3, h4, h5, h6, h7⟩ =>
    ⟨h1, h2, h3, h4, h5, c.taken_tick_le h6, h7⟩

/-! ### What a step can do -/

/-- A queue has not grown, or is within its capacity. -/
def Stays {α : Type} (cap : Nat) (l l' : List α) : Prop := l'.length ≤ l.length ∨ l'.length ≤ cap

/-- The receiver's places and credit (R129, R130). -/
def Receiver.Fits (r : Receiver) : Prop := r.buffer.length + r.reservedPlaces ≤ 32 ∧ r.credit ≤ r.freePlaces

/-- What can become of the arbiter. -/
inductive Egress.Move (e : Egress) : Egress → Prop where
  | credit (n : Nat) (h : n ≤ 255) : Egress.Move e { e with credit := n }
  | grant : Egress.Move e e.makeGrant
  | left (g : Grant) (h : e.grant = some g) : Egress.Move e (e.afterLeaving g)
  | queues (thru seg mix : List Parcel) (ctl : List CtlPlace) (ht : Stays 32 e.thru thru) (hs : Stays 16 e.seg seg)
      (hm : Stays 32 e.mix mix) (hc : Stays 16 e.ctl ctl)
      (hready : ∀ r, e.ready r = true → { e with thru := thru, seg := seg, mix := mix, ctl := ctl }.ready r = true) :
      Egress.Move e { e with thru := thru, seg := seg, mix := mix, ctl := ctl }
  | settings (x : EgressSettings) (h : x.legal) : Egress.Move e { e with pendingSettings := some x }

/-- What can become of the part, one change at a time: a record of a programme or of a track, a cue list, a track or a programme that is
opened or freed, a deferral, a reset, and what is not in the two tables. -/
inductive Move (s : State) : State → Prop where
  /-- A programme record changes; its cut line moves below the end of every cue of its tracks only. -/
  | prog (p : ProgSlot) (r r' : Programme) (hp : s.prog p = some r) (h : r.Evolves r')
      (hcut : r'.cutLine = r.cutLine ∨ ∀ u ∈ r.tracks, ∀ b, s.sub? u = some b → ∀ c ∈ b.cues, r'.cutLine < c.stop) :
      Move s (s.setProg p (some r'))
  | track (u : TrackSlot) (x x' : Track) (hu : s.track u = some x) (h : x.Evolves x') : Move s (s.setTrack u (some x'))
  /-- A subtitle list changes: it stays in order and in the pools, and its cues end where one ended before or after the cut line. -/
  | subList (u : TrackSlot) (x : Track) (b : SubTrack) (l : List SubCue) (hu : s.track u = some x) (hb : x.body = .sub b)
      (hordered : b.ordered → { b with cues := l }.ordered)
      (hends : ∀ c ∈ l, (∃ y ∈ b.cues, c.stop = y.stop) ∨ ∀ r, s.prog x.prog = some r → r.cutLine < c.stop)
      (hcues : l.length ≤ b.cues.length + s.freeCues) (hlines : lineCount l ≤ lineCount b.cues + s.freeLines) :
      Move s (s.setTrack u (some { x with body := .sub { b with cues := l } }))
  /-- An event list changes: it stays in order and in the pool. -/
  | adList (u : TrackSlot) (x : Track) (a : AdTrack) (l : List AdCue) (hu : s.track u = some x) (ha : x.body = .ad a)
      (hordered : a.ordered → { a with cues := l }.ordered) (hcues : l.length ≤ a.cues.length + s.freeCues) :
      Move s (s.setTrack u (some { x with body := .ad { a with cues := l } }))
  | openProgramme (p : ProgSlot) (r : Programme) (hp : s.prog p = none) (hsound : r.Sound) (htracks : r.tracks = [])
      (hdeferred : r.deferred = none) (hstream : s.streamInUse r.stream = false) : Move s (s.setProg p (some r))
  | openTrack (p : ProgSlot) (r : Programme) (u : TrackSlot) (x : Track) (hp : s.prog p = some r) (hu : s.track u = none)
      (hx : x.prog = p) (hcues : x.body.cueCount = 0) (hstream : s.streamInUse x.stream = false) :
      Move s ((s.setTrack u (some x)).setProg p (some { r with tracks := r.tracks ++ [u] }))
  | defer (p : ProgSlot) (r : Programme) (d : Deferred) (state : ProgState) (hp : s.prog p = some r) (hr : r.takes)
      (hdrain : state = .draining ∧ d.kind = .resetProgramme ∨ state = .closing ∧ d.kind = .closeProgramme ∨
        state = r.state ∧ d.kind ≠ .resetProgramme ∧ d.kind ≠ .closeProgramme)
      (htrack : ∀ u, d.kind = .closeTrack u → ∃ x, s.track u = some x ∧ x.prog = p) :
      Move s (s.setProg p (some { r with state := state, deferred := some d }))
  | freeTrack (p : ProgSlot) (r : Programme) (d : Deferred) (u : TrackSlot) (hp : s.prog p = some r)
      (hd : r.deferred = some d) (hk : d.kind = .closeTrack u) :
      Move s ((s.setTrack u none).setProg p (some { r with tracks := r.tracks.erase u, deferred := none }))
  | closeProgramme (p : ProgSlot) (r : Programme) (hp : s.prog p = some r) : Move s ((s.freeTracks r.tracks).setProg p none)
  | reset (straps : BitVec 4) (lanes : Lanes) : Move s (State.afterReset straps lanes s.pending)
  | inner (counters : UnitCounters) (loading : Option Loading) (audio : Option AudioWork) (fence : Option ProgSlot)
      (unitReset : Option UnitReset) (lanes : Lanes) : Move s { s with
        counters := counters
        loading := loading
        audio := audio
        fenceWaiting := fence
        unitReset := unitReset
        lanes := lanes }
  | receive (rx : Receiver) (h : s.rx.Fits → rx.Fits) : Move s { s with rx := rx }
  | queues (loaderQ : List LoaderEntry) (markQ : List Mark) (cuts : List Cut) (audioQ : List AudioCopy) (requestQ : List Request)
      (hl : Stays 32 s.loaderQ loaderQ) (hm : Stays 8 s.markQ markQ) (hc : Stays 2 s.cuts cuts) (ha : Stays 8 s.audioQ audioQ)
      (hr : Stays 4 s.requestQ requestQ) :
      Move s { s with loaderQ := loaderQ, markQ := markQ, cuts := cuts, audioQ := audioQ, requestQ := requestQ }
  | egress (e : Egress) (h : s.egress.Move e) : Move s { s with egress := e }
  | freeClips (l : List Clip) (h : l.Sublist s.clips) : Move s { s with clips := l }
  | storePage (p : ProgSlot) (g : PageLoad) (h : s.pageRefusal p g = none) : Move s (s.storePage p g)

/-- What can become of the part by changes one after another. -/
abbrev Moves : State → State → Prop := Relation.ReflTransGen Move

theorem Move.moves {s t : State} (h : Move s t) : Moves s t := .single h

end Sys2Proof.Machine
end

section
/-! PROOF. The moves that the operations on programmes, tracks and cue lists make. -/

namespace Sys2Proof.Machine

/-! ### The shared operations -/

theorem Moves.of_inner {s t : State} (h : t = { s with
    counters := t.counters
    loading := t.loading
    audio := t.audio
    fenceWaiting := t.fenceWaiting
    unitReset := t.unitReset
    lanes := t.lanes }) : Moves s t := by
  rw [h]
  exact (Move.inner _ _ _ _ _ _).moves

theorem Stays.refl {α : Type} (cap : Nat) (l : List α) : Stays cap l l := .inl le_rfl

/-- A queue with room takes one entry. -/
theorem Stays.append {α : Type} {cap : Nat} {l : List α} (h : l.length < cap) (x : α) : Stays cap l (l ++ [x]) :=
  .inr (by rw [List.length_append]; exact h)

theorem Stays.tail {α : Type} (cap : Nat) {l l' : List α} {x : α} (h : l = x :: l') : Stays cap l l' :=
  .inl (by rw [h]; exact Nat.le_succ _)

theorem Moves.setProg {s : State} {p : ProgSlot} {r r' : Programme} (hp : s.prog p = some r) (h : r.Serves r') :
    Moves s (s.setProg p (some r')) :=
  (Move.prog p r r' hp h.1 (.inl h.2)).moves

theorem Moves.modProg {s : State} {p : ProgSlot} {f : Programme → Programme} (h : ∀ r, s.prog p = some r → r.Serves (f r)) :
    Moves s (s.modProg p f) := by
  cases hp : s.prog p with
  | none => rw [State.modProg_of_none hp, State.setProg_of_eq hp]
  | some r => rw [State.modProg_of_some hp]; exact .setProg hp (h r hp)

theorem Moves.post (s : State) (p : ProgSlot) (f : Failure) : Moves s (s.post p f) :=
  .modProg fun r _ => r.serves_post f

theorem Moves.countIn (s : State) (p : ProgSlot) (f : ProgCounters → ProgCounters) : Moves s (s.countIn p f) :=
  .modProg fun r _ => r.serves_counters _

theorem Moves.raiseConcealDone (s : State) (p : ProgSlot) (u : TrackSlot) : Moves s (s.raiseConcealDone p u) :=
  .modProg fun r _ => r.serves_notice _

theorem Moves.raiseEventMissed (s : State) (p : ProgSlot) (u : TrackSlot) : Moves s (s.raiseEventMissed p u) := by
  refine .modProg fun r _ => ?_
  split
  · exact r.serves_notice _
  · exact r.serves_notice _
  · exact r.serves_notice r.notice
  · exact r.serves_notice r.notice

theorem Moves.modTrack {s : State} {u : TrackSlot} {f : Track → Track} (h : ∀ x, s.track u = some x → x.Evolves (f x)) :
    Moves s (s.modTrack u f) := by
  cases hu : s.track u with
  | none => rw [State.modTrack, hu, Option.map_none, State.setTrack_of_eq hu]
  | some x => rw [State.modTrack_of_some hu]; exact (Move.track u x _ hu (h x hu)).moves

/-- A track whose body stays as it is. -/
theorem Track.evolves_state (x : Track) (state : TrackState) : x.Evolves { x with state := state } := ⟨rfl, rfl, rfl, rfl⟩

theorem Track.Evolves.trans {x x' x'' : Track} (h : x.Evolves x') (h' : x'.Evolves x'') : x.Evolves x'' :=
  ⟨h'.prog.trans h.prog, h'.stream.trans h.stream, h'.subCues.trans h.subCues, h'.adCues.trans h.adCues⟩

theorem Track.evolves_modSub (x : Track) {f : SubTrack → SubTrack} (hf : ∀ b, (f b).cues = b.cues) : x.Evolves (x.modSub f) := by
  obtain ⟨prog, state, stream, tag, b | a⟩ := x
  · exact ⟨rfl, rfl, congrArg some (hf b), rfl⟩
  · exact ⟨rfl, rfl, rfl, rfl⟩

theorem Track.evolves_modAd (x : Track) {f : AdTrack → AdTrack} (hf : ∀ a, (f a).cues = a.cues) : x.Evolves (x.modAd f) := by
  obtain ⟨prog, state, stream, tag, b | a⟩ := x
  · exact ⟨rfl, rfl, rfl, rfl⟩
  · exact ⟨rfl, rfl, rfl, congrArg some (hf a)⟩

theorem Moves.modSub (s : State) (u : TrackSlot) {f : SubTrack → SubTrack} (hf : ∀ b, (f b).cues = b.cues) :
    Moves s (s.modSub u f) :=
  .modTrack fun x _ => x.evolves_modSub hf

theorem Moves.modAd (s : State) (u : TrackSlot) {f : AdTrack → AdTrack} (hf : ∀ a, (f a).cues = a.cues) : Moves s (s.modAd u f) :=
  .modTrack fun x _ => x.evolves_modAd hf

theorem Moves.foldl {ι : Type} {f : State → ι → State} (hf : ∀ s i, Moves s (f s i)) (l : List ι) (s : State) :
    Moves s (l.foldl f s) := by
  induction l generalizing s with
  | nil => exact .refl
  | cons i l ih => exact (hf s i).trans (ih _)

theorem Moves.freeingTest (s : State) (p : ProgSlot) (id : Nat) : Moves s (s.freeingTest p id) := by
  unfold State.freeingTest
  split
  · exact .refl
  · exact (Move.freeClips _ List.filter_sublist).moves

theorem Track.evolves_repaired (x : Track) : x.Evolves x.repaired :=
  (x.evolves_modSub (f := fun b => { b with outcome := some .repaired }) fun _ => rfl).trans (Track.evolves_state _ .active)

theorem Moves.completeConceal (s : State) (p : ProgSlot) (u : TrackSlot) : Moves s (s.completeConceal p u) :=
  (Moves.modTrack fun x _ => x.evolves_repaired).trans (Moves.raiseConcealDone _ p u)

/-! ### Cue lists -/

theorem SubCue.before_iff (x y : SubCue) : x.before y = true ↔ x.start < y.start ∨ (x.start = y.start ∧ x.id < y.id) := by
  simp [SubCue.before]

theorem AdCue.before_iff (x y : AdCue) :
    x.before y = true ↔ x.earliest < y.earliest ∨ (x.earliest = y.earliest ∧ x.id < y.id) := by
  simp [AdCue.before]

theorem SubTrack.ordered_nil (b : SubTrack) : { b with cues := [] }.ordered := ⟨.nil, .nil, nofun, Nat.zero_le _⟩

theorem AdTrack.ordered_nil (a : AdTrack) : { a with cues := [] }.ordered := ⟨.nil, .nil, nofun, Nat.zero_le _⟩

/-- A list whose cues keep id and start, some of them gone and none empty, stays in order. -/
theorem SubTrack.ordered.thin {b : SubTrack} (h : b.ordered) (keep : SubCue → Bool) {g : SubCue → SubCue}
    (hid : ∀ c, (g c).id = c.id) (hstart : ∀ c, (g c).start = c.start) (hstop : ∀ c ∈ b.cues, c.start < c.stop → c.start < (g c).stop) :
    { b with cues := (b.cues.filter keep).map g }.ordered := by
  obtain ⟨hbefore, hids, hne, hlen⟩ := h
  refine ⟨?_, ?_, ?_, ?_⟩
  · rw [List.pairwise_map]
    refine (hbefore.sublist List.filter_sublist).imp fun {x y} hxy => ?_
    rw [SubCue.before_iff, hid, hid, hstart, hstart, ← SubCue.before_iff]
    exact hxy
  · have hmap : ((b.cues.filter keep).map g).map (·.id) = (b.cues.filter keep).map (·.id) := by
      simp only [List.map_map, Function.comp_def, hid]
    show (((b.cues.filter keep).map g).map (·.id)).Nodup
    rw [hmap]
    exact hids.sublist (List.filter_sublist.map _)
  · intro c hc
    obtain ⟨y, hy, rfl⟩ := List.mem_map.mp hc
    have hy := List.mem_of_mem_filter hy
    rw [hstart]
    exact hstop y hy (hne y hy)
  · exact (List.length_map (as := b.cues.filter keep) g).trans_le ((List.length_filter_le _ _).trans hlen)

/-- An event list with some cues gone and their times and ids kept stays in order. -/
theorem AdTrack.ordered.thin {a : AdTrack} (h : a.ordered) {l : List AdCue}
    (hl : (l.map fun c => (c.id, c.earliest, c.latest)).Sublist (a.cues.map fun c => (c.id, c.earliest, c.latest))) :
    { a with cues := l }.ordered := by
  obtain ⟨hbefore, hids, hne, hlen⟩ := h
  have hids' : (a.cues.map fun c => (c.id, c.earliest, c.latest)).map Prod.fst = a.cues.map (·.id) := by simp
  have hpair : (a.cues.map fun c => (c.id, c.earliest, c.latest)).Pairwise
      fun x y => x.2.1 < y.2.1 ∨ (x.2.1 = y.2.1 ∧ x.1 < y.1) := by
    rw [List.pairwise_map]
    exact hbefore.imp fun {x y} hxy => (AdCue.before_iff x y).mp hxy
  refine ⟨?_, ?_, ?_, ?_⟩
  · have := hpair.sublist hl
    rw [List.pairwise_map] at this
    exact this.imp fun {x y} hxy => (AdCue.before_iff x y).mpr hxy
  · have := (hids' ▸ hids : ((a.cues.map fun c => (c.id, c.earliest, c.latest)).map Prod.fst).Nodup).sublist (hl.map _)
    simpa [Function.comp_def] using this
  · intro c hc
    obtain ⟨y, hy, heq⟩ := List.mem_map.mp (hl.subset (List.mem_map_of_mem hc))
    simp only [Prod.mk.injEq] at heq
    obtain ⟨-, he, hlat⟩ := heq
    rw [← he, ← hlat]
    exact hne y hy
  · have := hl.length_le
    simp only [List.length_map] at this
    exact this.trans hlen

theorem lineCount_map {g : SubCue → SubCue} (hlines : ∀ c, (g c).lines = c.lines) (l : List SubCue) :
    lineCount (l.map g) = lineCount l := by
  simp only [lineCount, List.map_map, Function.comp_def, hlines]

theorem lineCount_sublist {l l' : List SubCue} (h : l'.Sublist l) : lineCount l' ≤ lineCount l :=
  (h.map _).sum_le_sum fun _ _ => Nat.zero_le _

/-- The list of a SUB track loses cues, and those left keep id, start and lines and end as before or after the cut line. -/
theorem Moves.thin {s : State} {u : TrackSlot} {x : Track} {b : SubTrack} (hu : s.track u = some x) (hb : x.body = .sub b)
    (keep : SubCue → Bool) {g : SubCue → SubCue} (hid : ∀ c, (g c).id = c.id) (hstart : ∀ c, (g c).start = c.start)
    (hlines : ∀ c, (g c).lines = c.lines)
    (hstop : ∀ c, (g c).stop = c.stop ∨ (c.start < (g c).stop ∧ (keep c = true → ∀ r, s.prog x.prog = some r → r.cutLine < (g c).stop))) :
    Moves s (s.setTrack u (some { x with body := .sub { b with cues := (b.cues.filter keep).map g } })) := by
  refine (Move.subList u x b _ hu hb (fun h => h.thin keep hid hstart fun c _ hc => ?_) ?_ ?_ ?_).moves
  · rcases hstop c with h | ⟨h, -⟩
    · rwa [h]
    · exact h
  · intro c hc
    obtain ⟨y, hy, rfl⟩ := List.mem_map.mp hc
    rcases hstop y with h | ⟨-, h⟩
    · exact .inl ⟨y, List.mem_of_mem_filter hy, h⟩
    · exact .inr (h (List.of_mem_filter hy))
  · rw [List.length_map]
    exact (List.length_filter_le _ _).trans (Nat.le_add_right _ _)
  · rw [lineCount_map hlines]
    exact (lineCount_sublist List.filter_sublist).trans (Nat.le_add_right _ _)

/-- An event list loses cues, and those left keep id and times. -/
theorem Moves.thinAd {s : State} {u : TrackSlot} {x : Track} {a : AdTrack} (hu : s.track u = some x) (ha : x.body = .ad a)
    {l : List AdCue} (hl : (l.map fun c => (c.id, c.earliest, c.latest)).Sublist (a.cues.map fun c => (c.id, c.earliest, c.latest))) :
    Moves s (s.setTrack u (some { x with body := .ad { a with cues := l } })) := by
  refine (Move.adList u x a l hu ha (fun h => h.thin hl) ?_).moves
  have := hl.length_le
  simp only [List.length_map] at this
  exact this.trans (Nat.le_add_right _ _)

/-- The fields of an AD track change, and its list at most loses cues. -/
theorem Moves.modAdThin {s : State} {u : TrackSlot} {f : AdTrack → AdTrack} (hf : ∀ a, s.ad? u = some a →
    ((f a).cues.map fun c => (c.id, c.earliest, c.latest)).Sublist (a.cues.map fun c => (c.id, c.earliest, c.latest))) :
    Moves s (s.modAd u f) := by
  cases hu : s.track u with
  | none => rw [State.modAd, State.modTrack, hu, Option.map_none, State.setTrack_of_eq hu]
  | some x =>
    cases hx : x.body with
    | sub b =>
      rw [State.modAd, State.modTrack_of_some hu, Track.modAd, hx]
      exact (State.setTrack_of_eq hu).symm ▸ Relation.ReflTransGen.refl
    | ad a =>
      have hthin := Moves.thinAd hu hx (hf a (State.ad?_of_ad hu hx))
      have hfields := (Move.track u { x with body := .ad { a with cues := (f a).cues } } { x with body := .ad (f a) }
        (s := s.setTrack u (some { x with body := .ad { a with cues := (f a).cues } })) (by simp) ⟨rfl, rfl, rfl, rfl⟩).moves
      rw [State.setTrack_setTrack] at hfields
      rw [State.modAd_of_ad hu hx]
      exact hthin.trans hfields

end Sys2Proof.Machine
end

section
/-! PROOF. The moves that the cue loader's records make. -/

namespace Sys2Proof.Machine

/-! ### The loader's records -/

/-- The cue a subtitle record makes is not empty and ends after the cut line (R6, R39, R41). -/
theorem ends_of_testedSubCue {pl : SubPlace} {r : Programme} {x : Track} {b : SubTrack} {c : SubCue}
    (h : testedSubCue pl r x b = .ok c) : c.start < c.stop ∧ r.cutLine < c.stop := by
  have hcut : ∀ c c' : SubCue, c.start < c.stop → c.againstCutLine r.cutLine = .ok c' →
      c'.start < c'.stop ∧ r.cutLine ≤ c'.start := by
    intro c c' hne h
    unfold SubCue.againstCutLine at h
    split at h
    · cases h
    · split at h <;> cases h
      · exact ⟨by dsimp only; omega, le_rfl⟩
      · exact ⟨hne, by omega⟩
  have hwindow : ∀ (c c' : SubCue) (w : Window), c.start < c.stop → c.againstWindow w = .ok c' →
      c'.start = c.start ∧ c.start < c'.stop := by
    intro c c' w hne h
    unfold SubCue.againstWindow at h
    split at h
    next hcross =>
      cases h
      simp only [Bool.and_eq_true, decide_eq_true_eq] at hcross
      exact ⟨rfl, hcross.1⟩
    next =>
      split at h
      · cases h; exact ⟨rfl, hne⟩
      · split at h
        · cases h
        · cases h; exact ⟨rfl, hne⟩
  unfold testedSubCue at h
  split at h
  · cases h
  next c₁ hc₁ =>
    have hne : c₁.start < c₁.stop := by
      unfold SubPlace.cue at hc₁
      split at hc₁
      · split at hc₁
        · cases hc₁
        · cases hc₁; exact Nat.lt_of_not_le ‹_›
      · cases hc₁
    split at h
    · cases h
    next c₂ hc₂ =>
      obtain ⟨hne₂, hle⟩ := hcut c₁ c₂ hne hc₂
      split at h
      · cases h; exact ⟨hne₂, hle.trans_lt hne₂⟩
      next w _ =>
        obtain ⟨hstart, hstop⟩ := hwindow c₂ c w hne₂ h
        exact ⟨hstart ▸ hstop, hle.trans_lt hstop⟩

/-- Insertion keeps the order of a list that holds no cue of the inserted id. -/
theorem pairwise_insertBy_subCue {c : SubCue} {l : List SubCue} (h : l.Pairwise fun x y => x.before y = true)
    (hid : ∀ y ∈ l, y.id ≠ c.id) : (insertBy SubCue.before c l).Pairwise fun x y => x.before y = true := by
  refine insertBy_pairwise _ _ ?_ c l (fun _ _ => id) (fun y hy hb => ?_) h
  · intro x y z
    simp only [SubCue.before_iff]
    omega
  · have := hid y hy
    rw [← Bool.not_eq_true, SubCue.before_iff] at hb
    rw [SubCue.before_iff]
    omega

theorem pairwise_insertBy_adCue {c : AdCue} {l : List AdCue} (h : l.Pairwise fun x y => x.before y = true)
    (hid : ∀ y ∈ l, y.id ≠ c.id) : (insertBy AdCue.before c l).Pairwise fun x y => x.before y = true := by
  refine insertBy_pairwise _ _ ?_ c l (fun _ _ => id) (fun y hy hb => ?_) h
  · intro x y z
    simp only [AdCue.before_iff]
    omega
  · have := hid y hy
    rw [← Bool.not_eq_true, AdCue.before_iff] at hb
    rw [AdCue.before_iff]
    omega

/-- The members of a list without those of an id, when it held one: at least one less. -/
theorem length_filter_id_ne {α : Type} {key : α → Nat} {l : List α} {id : Nat} :
    (l.filter fun x => key x != id).length + (l.find? fun x => key x == id).isSome.toNat ≤ l.length := by
  induction l with
  | nil => simp
  | cons x l ih =>
    by_cases h : key x = id
    · have := List.length_filter_le (fun x => key x != id) l
      simp [h]; omega
    · simp only [List.filter_cons, List.find?_cons, bne_iff_ne, ne_eq, h, not_false_iff, if_true, List.length_cons,
        beq_eq_false_iff_ne.mpr h]
      omega

/-- The lines of a list without the cues of an id, and those of the first of them. -/
theorem lineCount_filter_id_ne (l : List SubCue) (id : Nat) :
    lineCount (l.filter fun x => x.id != id) + ((l.find? fun x => x.id == id).map (·.lines.length)).getD 0 ≤ lineCount l := by
  induction l with
  | nil => simp
  | cons x l ih =>
    by_cases h : x.id = id
    · have := lineCount_sublist (List.filter_sublist (p := fun x : SubCue => x.id != id) (l := l))
      simp [h, lineCount] at this ⊢; omega
    · simp only [List.filter_cons, List.find?_cons, bne_iff_ne, ne_eq, h, not_false_iff, if_true, lineCount, List.map_cons,
        List.sum_cons, beq_eq_false_iff_ne.mpr h] at ih ⊢
      omega

theorem ids_filter_ne {α : Type} {key : α → Nat} (l : List α) (id : Nat) : ∀ y ∈ l.filter (fun x => key x != id), key y ≠ id := by
  intro y hy
  simpa using (List.mem_filter.mp hy).2

theorem SubTrack.ordered.insert {b : SubTrack} (h : b.ordered) {c : SubCue} (hne : c.start < c.stop)
    (hroom : b.cues.length - (b.cues.find? fun x => x.id == c.id).isSome.toNat < 512) : (b.insert c).ordered := by
  obtain ⟨hbefore, hids, hstop, hlen⟩ := h
  have hperm := insertBy_perm SubCue.before c (b.cues.filter fun x => x.id != c.id)
  have hother := ids_filter_ne (key := SubCue.id) b.cues c.id
  refine ⟨pairwise_insertBy_subCue (hbefore.sublist List.filter_sublist) hother, ?_, ?_, ?_⟩
  · refine ((hperm.map _).nodup_iff).mpr (List.nodup_cons.mpr ⟨?_, hids.sublist (List.filter_sublist.map _)⟩)
    intro hmem
    obtain ⟨y, hy, hyid⟩ := List.mem_map.mp hmem
    exact hother y hy hyid
  · intro y hy
    rcases (mem_insertBy ..).mp hy with rfl | hy
    · exact hne
    · exact hstop y (List.mem_of_mem_filter hy)
  · have := length_filter_id_ne (key := SubCue.id) (l := b.cues) (id := c.id)
    show (insertBy SubCue.before c (b.cues.filter fun x => x.id != c.id)).length ≤ 512
    rw [length_insertBy]
    omega

theorem AdTrack.ordered.insert {a : AdTrack} (h : a.ordered) {c : AdCue} (hne : c.earliest ≤ c.latest)
    (hroom : a.cues.length - (a.cues.find? fun x => x.id == c.id).isSome.toNat < 512) : (a.insert c).ordered := by
  obtain ⟨hbefore, hids, hstop, hlen⟩ := h
  have hperm := insertBy_perm AdCue.before c (a.cues.filter fun x => x.id != c.id)
  have hother := ids_filter_ne (key := AdCue.id) a.cues c.id
  refine ⟨pairwise_insertBy_adCue (hbefore.sublist List.filter_sublist) hother, ?_, ?_, ?_⟩
  · refine ((hperm.map _).nodup_iff).mpr (List.nodup_cons.mpr ⟨?_, hids.sublist (List.filter_sublist.map _)⟩)
    intro hmem
    obtain ⟨y, hy, hyid⟩ := List.mem_map.mp hmem
    exact hother y hy hyid
  · intro y hy
    rcases (mem_insertBy ..).mp hy with rfl | hy
    · exact hne
    · exact hstop y (List.mem_of_mem_filter hy)
  · have := length_filter_id_ne (key := AdCue.id) (l := a.cues) (id := c.id)
    show (insertBy AdCue.before c (a.cues.filter fun x => x.id != c.id)).length ≤ 512
    rw [length_insertBy]
    omega

theorem Moves.resolveWindow (s : State) (p : ProgSlot) (u : TrackSlot) (x : Track) (b : SubTrack) (cutLine start : Nat) :
    Moves s (s.resolveWindow p u x b cutLine start) := by
  unfold State.resolveWindow
  split
  · exact .refl
  next w _ =>
    have hwindow := Moves.modSub s u (f := fun b => { b with window := some (w.lowered start) }) fun _ => rfl
    dsimp only
    split
    · exact hwindow.trans (Moves.completeConceal _ p u)
    · exact hwindow

/-- A subtitle PLACE that is not refused (R43, R79). -/
theorem Moves.placeSub {s t : State} {p : ProgSlot} {r : Programme} {u : TrackSlot} {x : Track} {b : SubTrack} {pl : SubPlace}
    (hp : s.prog x.prog = some r) (hu : s.track u = some x) (hb : x.body = .sub b) (h : s.placeSub p r u x b pl = .ok t) :
    Moves s t := by
  unfold State.placeSub at h
  split at h
  · cases h
  next c hc =>
    obtain ⟨hne, hcut⟩ := ends_of_testedSubCue hc
    dsimp only at h
    split at h
    · cases h
    split at h
    · cases h
    next hroom =>
      cases h
      rw [Bool.not_eq_true, Bool.not_eq_false', State.roomForSub_iff] at hroom
      obtain ⟨hcues, hlines, hlen⟩ := hroom
      rw [Option.isSome_map] at hcues hlen
      have hinsert : Moves s (s.modSub u fun b => b.insert c) := by
        rw [State.modSub_of_sub hu hb]
        refine (Move.subList u x b _ hu hb (fun ho => ho.insert hne hlen) ?_ ?_ ?_).moves
        · intro y hy
          rcases (mem_insertBy ..).mp hy with rfl | hy
          · exact .inr fun r' hr' => by cases hp.symm.trans hr'; exact hcut
          · exact .inl ⟨y, List.mem_of_mem_filter hy, rfl⟩
        · have := length_filter_id_ne (key := SubCue.id) (l := b.cues) (id := c.id)
          rw [length_insertBy]
          omega
        · have hperm : lineCount (insertBy SubCue.before c (b.cues.filter fun x => x.id != c.id))
              = c.lines.length + lineCount (b.cues.filter fun x => x.id != c.id) :=
            ((insertBy_perm SubCue.before c _).map _).sum_eq
          have := lineCount_filter_id_ne b.cues c.id
          rw [hperm]
          omega
      exact hinsert.trans ((Moves.countIn _ p _).trans (Moves.resolveWindow _ p u x b _ _))

/-- The conversion is monotone, also for a rate of 0 (R4). -/
theorem Timebase.offset_mono (tb : Timebase) {u v : Nat} (h : u ≤ v) : tb.offset u ≤ tb.offset v := by
  unfold Timebase.offset
  apply Nat.div_le_div_right
  gcongr

theorem Timebase.tick_eq_some {tb : Timebase} {u a : Nat} (h : tb.tick u = some a) : a = tb.origin + tb.offset u := by
  unfold Timebase.tick at h
  split at h <;> cases h
  rfl

theorem Timebase.tick_mono {tb : Timebase} {u v a z : Nat} (huv : u ≤ v) (ha : tb.tick u = some a) (hz : tb.tick v = some z) :
    a ≤ z := by
  rw [tb.tick_eq_some ha, tb.tick_eq_some hz]
  exact Nat.add_le_add_left (tb.offset_mono huv) _

theorem times_of_adPlaceOf {rec : List Byte} {pl : AdPlace} (h : adPlaceOf rec = some pl) : pl.earliestUnit ≤ pl.latestUnit := by
  unfold adPlaceOf at h
  split at h
  next hc =>
    cases h
    simp only [Bool.and_eq_true, decide_eq_true_eq] at hc
    exact hc.2
  next => cases h

/-- A description PLACE that is not refused (R43). -/
theorem Moves.placeAd {s t : State} {p : ProgSlot} {r : Programme} {u : TrackSlot} {x : Track} {a : AdTrack} {pl : AdPlace}
    (hu : s.track u = some x) (ha : x.body = .ad a) (hpl : pl.earliestUnit ≤ pl.latestUnit) (h : s.placeAd p r u a pl = .ok t) :
    Moves s t := by
  unfold State.placeAd at h
  split at h
  · cases h
  next c hc =>
    have hne : c.earliest ≤ c.latest := by
      unfold AdPlace.cue at hc
      split at hc
      next hearliest hlatest => cases hc; exact Timebase.tick_mono hpl hearliest hlatest
      next => cases hc
    split at h
    · cases h
    next c' hc' =>
      have hcc : c' = c := by
        unfold AdCue.againstAudioLine at hc'
        split at hc' <;> cases hc'
        rfl
      subst hcc
      dsimp only at h
      split at h
      · cases h
      split at h
      · cases h
      next hroom =>
        cases h
        rw [Bool.not_eq_true, Bool.not_eq_false', State.roomForAd_iff] at hroom
        obtain ⟨hcues, -, hlen⟩ := hroom
        rw [Option.isSome_map] at hcues hlen
        have hinsert : Moves s (s.modAd u fun b => b.insert c') := by
          rw [State.modAd_of_ad hu ha]
          refine (Move.adList u x a _ hu ha (fun ho => ho.insert hne hlen) ?_).moves
          have := length_filter_id_ne (key := AdCue.id) (l := a.cues) (id := c'.id)
          rw [length_insertBy]
          omega
        exact hinsert.trans (Moves.countIn _ p _)

/-- A byte that names a track of a programme names a slot that holds it. -/
theorem State.track_of_trackOf {s : State} {p : ProgSlot} {n : Nat} {u : TrackSlot} {x : Track} (h : s.trackOf p n = some (u, x)) :
    s.track u = some x ∧ x.prog = p := by
  unfold State.trackOf at h
  split at h
  · cases h
  split at h
  · cases h
  next hx =>
    split at h <;> cases h
    exact ⟨hx, ‹_›⟩

theorem State.track_of_recordTrack {s : State} {c : CueLoading} {rec : List Byte} {u : TrackSlot} {x : Track}
    (h : s.recordTrack c rec = .ok (u, x)) : s.track u = some x ∧ x.prog = c.prog := by
  unfold State.recordTrack at h
  split at h
  · cases h
  next hx =>
    split at h
    · cases h
    split at h
    · cases h
    split at h
    · cases h
    · cases h; exact State.track_of_trackOf hx

theorem Moves.applyPlace {s t : State} {c : CueLoading} {r : Programme} {rec : List Byte} (hp : s.prog c.prog = some r)
    (h : s.applyPlace c r rec = .ok t) : Moves s t := by
  unfold State.applyPlace at h
  split at h
  · cases h
  next u x hx =>
    obtain ⟨hu, hprog⟩ := State.track_of_recordTrack hx
    split at h
    next b hb =>
      split at h
      · cases h
      · exact .placeSub (hprog ▸ hp) hu hb h
    next a ha =>
      split at h
      · cases h
      next hpl => exact .placeAd hu ha (times_of_adPlaceOf hpl) h

theorem Moves.applyWithdraw {s t : State} {c : CueLoading} {r : Programme} {rec : List Byte}
    (h : s.applyWithdraw c r rec = .ok t) : Moves s t := by
  unfold State.applyWithdraw at h
  split at h
  · cases h
  next u x hx =>
    obtain ⟨hu, -⟩ := State.track_of_recordTrack hx
    split at h
    · cases h
    split at h
    next b hb =>
      split at h
      · cases h
      split at h <;> cases h
      rw [State.modSub_of_sub hu hb, ← List.map_id (b.cues.filter _)]
      exact Moves.thin hu hb _ (fun _ => rfl) (fun _ => rfl) (fun _ => rfl) fun _ => .inl rfl
    next a ha =>
      split at h
      · cases h
      split at h <;> cases h
      exact .modAdThin fun a _ => List.filter_sublist.map _

theorem Moves.failRecord (s : State) (c : CueLoading) (rec : List Byte) (code : ResultCode) : Moves s (s.failRecord c rec code) := by
  unfold State.failRecord
  dsimp only
  split
  · exact (Moves.countIn s c.prog _).trans (Moves.post ..)
  · exact Moves.post ..

theorem Moves.advanceLoader (s : State) (c : CueLoading) (rest : List (List Byte)) : Moves s (s.advanceLoader c rest) :=
  .of_inner rfl

theorem Moves.reachRecord {s : State} {op : Nat → Bool} {apply : State → CueLoading → Programme → List Byte → Except ResultCode State}
    (h : ∀ c r rec t, s.prog c.prog = some r → apply s c r rec = .ok t → Moves s t) : Moves s (s.reachRecord op apply) := by
  unfold State.reachRecord
  split
  · exact .refl
  · exact .refl
  next c _ =>
    split
    · exact .refl
    split
    · exact .refl
    split
    · exact .of_inner rfl
    next r hp =>
      split
      · exact (Moves.of_inner (t := { s with loading := none }) rfl).trans (Moves.post ..)
      split
      next ht => exact (h c r _ _ hp ht).trans (Moves.advanceLoader ..)
      next => exact (Moves.failRecord ..).trans (Moves.advanceLoader ..)

theorem Moves.takeCueload (s : State) (p : Parcel) (o : BitVec 32) : Moves s (s.takeCueload p o) := by
  unfold State.takeCueload
  dsimp only
  split
  · exact Moves.post ..
  · exact .of_inner rfl

theorem Moves.takeParcel {s t : State} (h : Moves s t) (p : ProgSlot) (origin : FailureOrigin) (o : BitVec 32) :
    Moves s (s.takeParcel p origin o t) := by
  unfold State.takeParcel
  split
  · exact .of_inner rfl
  split
  · exact h
  · exact Moves.post ..
  · exact (Moves.of_inner (t := s.countDrainDiscard) rfl).trans (Moves.post ..)
  · exact (Moves.of_inner (t := s.countDrainDiscard) rfl).trans (Moves.post ..)

/-! ### The CTL places -/

theorem ready_fillPlace {place filled : CtlPlace} (hfilled : filled.parcel?.isSome = true)
    (l : List CtlPlace) (h : (l.head?.bind CtlPlace.parcel?).isSome = true) :
    ((fillPlace place filled l).head?.bind CtlPlace.parcel?).isSome = true := by
  cases l with
  | nil => exact h
  | cons c l =>
    unfold fillPlace
    split
    · exact hfilled
    · exact h

/-- The CTL queue changes, within its capacity, and a placed head stays one. -/
theorem Moves.setCtl {s : State} {ctl : List CtlPlace} (hlength : Stays 16 s.egress.ctl ctl)
    (hready : (s.egress.ctl.head?.bind CtlPlace.parcel?).isSome = true → (ctl.head?.bind CtlPlace.parcel?).isSome = true) :
    Moves s (s.setCtl ctl) :=
  (Move.egress _ (.queues s.egress.thru s.egress.seg s.egress.mix ctl (.refl ..) (.refl ..) (.refl ..) hlength fun r h => by
    cases r
    · exact hready h
    all_goals exact h)).moves

theorem Moves.answerDeferred (s : State) (p : ProgSlot) (d : Deferred) (fields : List Byte) : Moves s (s.answerDeferred p d fields) :=
  Moves.setCtl (.inl (length_fillPlace ..).le) (ready_fillPlace rfl _)

/-- A tail entry is appended to the CTL queue. -/
theorem Moves.appendCtl {s : State} (hroom : s.egress.ctl.length < 16) (c : CtlPlace) : Moves s (s.setCtl (s.egress.ctl ++ [c])) :=
  Moves.setCtl (.append hroom c) fun h => by
    cases hctl : s.egress.ctl with
    | nil => rw [hctl] at h; cases h
    | cons x l => rw [hctl] at h; exact h

theorem Moves.answerFence (s : State) (p : ProgSlot) : Moves s (s.answerFence p) := by
  unfold State.answerFence
  split
  · exact .refl
  next r hp =>
    split
    · exact .refl
    next d hd =>
      split
      next hk =>
        refine Relation.ReflTransGen.trans ?_ (Moves.answerDeferred ..)
        rw [State.modProg_of_some hp]
        refine (Move.prog p r { r with firstError := none, failureCount := 0, deferred := none } hp
          ⟨rfl, rfl, .inr rfl, fun ⟨⟨hdrain, hclose⟩, hrange⟩ => ⟨⟨?_, ?_⟩, ?_⟩⟩ (.inl rfl)).moves
        · refine iff_of_false (fun hs => ?_) nofun
          obtain ⟨d', hd', hk'⟩ := hdrain.mp hs
          cases hd.symm.trans hd'
          cases hk.symm.trans hk'
        · refine iff_of_false (fun hs => ?_) nofun
          obtain ⟨d', hd', hk'⟩ := hclose.mp hs
          cases hd.symm.trans hd'
          cases hk.symm.trans hk'
        · obtain ⟨h1, h2, -, h4⟩ := hrange
          exact ⟨h1, h2, Nat.zero_le _, h4⟩
      next => exact .refl

end Sys2Proof.Machine
end

section
/-! PROOF. The moves that the lanes, the routing, the audio path, the requests and the completions make. -/

namespace Sys2Proof.Machine

/-! ### The lane receiver and routing -/

theorem Receiver.Fits.accept {rx : Receiver} (h : rx.Fits) (hd : Header) (hidle : rx.reservedPlaces = 0) : (rx.accept hd).Fits := by
  obtain ⟨hplaces, hcredit⟩ := h
  simp only [Receiver.Fits, Receiver.freePlaces, Config.ingressBuffer, hidle, Nat.add_zero] at hplaces hcredit ⊢
  by_cases hfree : rx.buffer.length < 32
  · have : (rx.accept hd).reservedPlaces = 1 := by
      have hne : rx.freePlaces ≠ 0 := by
        simp only [Receiver.freePlaces, Config.ingressBuffer, hidle]; omega
      simp only [Receiver.accept, Receiver.reservedPlaces, bne_iff_ne.mpr hne]
    rw [this]
    simp only [Receiver.accept]
    omega
  · have : (rx.accept hd).reservedPlaces = 0 := by
      have hne : (rx.freePlaces != 0) = false := by
        simp only [Receiver.freePlaces, Config.ingressBuffer, hidle, bne_eq_false_iff_eq]; omega
      simp only [Receiver.accept, Receiver.reservedPlaces, hne]
    rw [this]
    simp only [Receiver.accept]
    omega

theorem Receiver.Fits.restart {rx : Receiver} (h : rx.Fits) : ({ rx with credit := rx.freePlaces } : Receiver).Fits :=
  ⟨h.1, le_rfl⟩

theorem Moves.receive {s : State} {rx : Receiver} (h : s.rx.Fits → rx.Fits) : Moves s { s with rx := rx } :=
  (Move.receive rx h).moves

theorem Moves.creditRestart (s : State) : Moves s s.creditRestart :=
  (Moves.receive (rx := { s.rx with credit := s.rx.freePlaces }) Receiver.Fits.restart).trans (Moves.of_inner rfl)

/-- An accepted header was read in HEADER or in HUNT, where no place is reserved. -/
theorem reservedPlaces_of_acceptedHeader {rx : Receiver} {bytes : List Byte} {h : Header}
    (ha : acceptedHeader rx.framing bytes = some h) : rx.reservedPlaces = 0 := by
  unfold acceptedHeader at ha
  unfold Receiver.reservedPlaces
  split at ha
  next hf => rw [hf]
  next hf => rw [hf]
  next => cases ha

theorem Moves.acceptHeader {s : State} {bytes : List Byte} {h : Header} (ha : acceptedHeader s.rx.framing bytes = some h) :
    Moves s (s.acceptHeader h) := by
  have haccept : Moves s { s with rx := s.rx.accept h } :=
    Moves.receive fun hf => hf.accept h (reservedPlaces_of_acceptedHeader ha)
  unfold State.acceptHeader
  dsimp only
  split
  · exact haccept.trans ((Moves.of_inner rfl).trans (Moves.creditRestart (State.count _ _)))
  · exact haccept

theorem Moves.takeWhole {s : State} {h : Header} (hf : s.rx.framing = .body h true) (p : Parcel) : Moves s (s.takeWhole p) := by
  refine Relation.ReflTransGen.trans (b := { s with rx := (s.takeWhole p).rx }) (Moves.receive ?_) (Moves.of_inner rfl)
  rintro ⟨hplaces, hcredit⟩
  simp only [Receiver.Fits, Receiver.freePlaces, Receiver.reservedPlaces, State.takeWhole, hf, List.length_append,
    List.length_singleton] at hplaces hcredit ⊢
  omega

theorem Moves.unbuffered {s : State} {e : IngressEntry} {rest : List IngressEntry} (hb : s.rx.buffer = e :: rest) :
    Moves s (s.unbuffered rest) := by
  refine Relation.ReflTransGen.trans (b := { s with rx := (s.unbuffered rest).rx }) (Moves.receive ?_) (Moves.of_inner rfl)
  rintro ⟨hplaces, hcredit⟩
  have hreserved : (s.unbuffered rest).rx.reservedPlaces = s.rx.reservedPlaces := rfl
  simp only [Receiver.Fits, Receiver.freePlaces, hreserved, hb, List.length_cons, Config.ingressBuffer] at hplaces hcredit ⊢
  simp only [State.unbuffered]
  split <;> omega

theorem Moves.passed {s : State} {e : IngressEntry} {rest : List IngressEntry} (hb : s.rx.buffer = e :: rest)
    (hroom : s.thruRoom = true) : Moves s (s.passed e rest) := by
  have hthru : s.egress.thru.length < 32 := by simpa [State.thruRoom_eq] using hroom
  have hpass : Moves (s.unbuffered rest) { s.unbuffered rest with
      egress := { s.egress with thru := s.egress.thru ++ [e.parcel] } } := by
    refine (Move.egress (s := s.unbuffered rest) _ (.queues _ s.egress.seg s.egress.mix s.egress.ctl (.append hthru e.parcel)
      (.refl ..) (.refl ..) (.refl ..) fun r h => ?_)).moves
    cases r
    case thru =>
      change (s.egress.thru ++ [e.parcel]).head?.isSome = true
      simp
    all_goals exact h
  exact (Moves.unbuffered hb).trans (hpass.trans (Moves.of_inner rfl))

theorem Moves.queues {s : State} {loaderQ : List LoaderEntry} {markQ : List Mark} {cuts : List Cut} {audioQ : List AudioCopy}
    {requestQ : List Request} (hl : Stays 32 s.loaderQ loaderQ) (hm : Stays 8 s.markQ markQ) (hc : Stays 2 s.cuts cuts)
    (ha : Stays 8 s.audioQ audioQ) (hr : Stays 4 s.requestQ requestQ) :
    Moves s { s with loaderQ := loaderQ, markQ := markQ, cuts := cuts, audioQ := audioQ, requestQ := requestQ } :=
  (Move.queues _ _ _ _ _ hl hm hc ha hr).moves

theorem Moves.loaderQ {s : State} {l : List LoaderEntry} (h : Stays 32 s.loaderQ l) : Moves s { s with loaderQ := l } :=
  Moves.queues h (.refl ..) (.refl ..) (.refl ..) (.refl ..)

theorem Moves.markQ {s : State} {l : List Mark} (h : Stays 8 s.markQ l) : Moves s { s with markQ := l } :=
  Moves.queues (.refl ..) h (.refl ..) (.refl ..) (.refl ..)

theorem Moves.cuts {s : State} {l : List Cut} (h : Stays 2 s.cuts l) : Moves s { s with cuts := l } :=
  Moves.queues (.refl ..) (.refl ..) h (.refl ..) (.refl ..)

theorem Moves.audioQ {s : State} {l : List AudioCopy} (h : Stays 8 s.audioQ l) : Moves s { s with audioQ := l } :=
  Moves.queues (.refl ..) (.refl ..) (.refl ..) h (.refl ..)

theorem Moves.requestQ {s : State} {l : List Request} (h : Stays 4 s.requestQ l) : Moves s { s with requestQ := l } :=
  Moves.queues (.refl ..) (.refl ..) (.refl ..) (.refl ..) h

theorem Moves.postMarkFailure (s : State) (e : IngressEntry) : Moves s (s.postMarkFailure e) := by
  unfold State.postMarkFailure
  split
  · exact Moves.post ..
  · exact .refl

theorem Moves.routeAudio {s : State} {e : IngressEntry} {rest : List IngressEntry} (hb : s.rx.buffer = e :: rest) :
    Moves s (s.routeAudio e) := by
  unfold State.routeAudio
  rw [State.pass_leaveBuffer_eq hb]
  split
  · split
    next hroom =>
      rw [Bool.and_eq_true, State.audioRoom_eq, decide_eq_true_eq] at hroom
      exact (Moves.passed hb hroom.1).trans (Moves.audioQ (s := s.passed e rest) (.append hroom.2 _))
    next => exact .refl
  · split
    next hroom => exact Moves.passed hb hroom
    next => exact .refl

theorem Moves.routeMark {s : State} {e : IngressEntry} {rest : List IngressEntry} (hb : s.rx.buffer = e :: rest) :
    Moves s (s.routeMark e) := by
  unfold State.routeMark
  rw [State.pass_leaveBuffer_eq hb]
  split
  · split
    next hroom => exact (Moves.passed hb hroom).trans (Moves.postMarkFailure ..)
    next => exact .refl
  · split
    · split
      next hroom =>
        rw [Bool.and_eq_true, State.markRoom_eq, decide_eq_true_eq] at hroom
        exact (Moves.passed hb hroom.1).trans (Moves.markQ (s := s.passed e rest) (.append hroom.2 _))
      next => exact .refl
    · split
      next hroom => exact Moves.passed hb hroom
      next => exact .refl

theorem Moves.routePosted {s : State} {e : IngressEntry} {rest : List IngressEntry} (hb : s.rx.buffer = e :: rest) :
    Moves s (s.routePosted e) := by
  unfold State.routePosted
  rw [State.leaveBuffer_eq hb]
  split
  · exact (Moves.unbuffered hb).trans ((Moves.of_inner rfl).trans (Moves.post (s.unbuffered rest).countDropped _ _))
  · split
    next hroom =>
      rw [State.loaderRoom_eq, decide_eq_true_eq] at hroom
      exact (Moves.unbuffered hb).trans (Moves.loaderQ (s := s.unbuffered rest) (.append hroom _))
    next => exact .refl

theorem Moves.routeRequest {s : State} {e : IngressEntry} {rest : List IngressEntry} (hb : s.rx.buffer = e :: rest) :
    Moves s (s.routeRequest e) := by
  unfold State.routeRequest
  rw [State.leaveBuffer_eq hb]
  split
  · exact (Moves.unbuffered hb).trans (Moves.of_inner rfl)
  · split
    next hroom =>
      rw [State.requestRoom_eq, decide_eq_true_eq] at hroom
      exact (Moves.unbuffered hb).trans (Moves.requestQ (s := s.unbuffered rest) (.append hroom _))
    next => exact .refl

theorem Moves.routeForeign {s : State} {e : IngressEntry} {rest : List IngressEntry} (hb : s.rx.buffer = e :: rest) :
    Moves s (s.routeForeign e) := by
  unfold State.routeForeign
  rw [State.pass_leaveBuffer_eq hb]
  split
  next hroom => exact Moves.passed hb hroom
  next => exact .refl

/-! ### The audio path -/

theorem Moves.continueAudio (s : State) (w : AudioWork) : Moves s (s.continueAudio w) := .of_inner rfl

theorem Moves.placeMix (s : State) (w : AudioWork) (p : Parcel) : Moves s (s.placeMix w p) := by
  unfold State.placeMix
  split
  next hroom =>
    rw [State.mixRoom_eq, decide_eq_true_eq] at hroom
    refine Relation.ReflTransGen.trans (Move.moves ?_) (Moves.continueAudio _ _)
    refine Move.egress _ (.queues s.egress.thru s.egress.seg _ s.egress.ctl (.refl ..) (.refl ..) (.append hroom _) (.refl ..)
      fun r h => ?_)
    cases r
    case mix =>
      change (s.egress.mix ++ [p]).head?.isSome = true
      simp
    all_goals exact h
  next => exact Moves.continueAudio _ _

theorem Moves.writeRendering (s : State) (w : AudioWork) (u : TrackSlot) (a : AdTrack) : Moves s (s.writeRendering w u a) := by
  unfold State.writeRendering
  dsimp only
  split
  · exact (Moves.modAd s u (f := fun b => { b with gain := a.gainAfter }) fun _ => rfl).trans (Moves.countIn ..)
  · exact Moves.countIn ..

theorem Moves.makeCurrent (s : State) (r : Programme) (c : AudioCopy) : Moves s (s.makeCurrent r c) := by
  unfold State.makeCurrent
  dsimp only
  split
  · exact .refl
  · exact .of_inner rfl

/-! ### The event engine -/

theorem Moves.cueDone (s : State) (p : ProgSlot) (clip : Nat) : Moves s (s.cueDone p clip) :=
  (Moves.countIn s p _).trans (Moves.freeingTest ..)

theorem Moves.cueMissed (s : State) (p : ProgSlot) (u : TrackSlot) (code : ResultCode) (o : BitVec 32) (c : AdCue) :
    Moves s (s.cueMissed p u code o c) := by
  have hremove : Moves s (s.modAd u fun a => a.remove c.id) := .modAdThin fun a _ => List.filter_sublist.map _
  exact hremove.trans ((Moves.countIn _ p _).trans ((Moves.post ..).trans ((Moves.raiseEventMissed ..).trans (Moves.freeingTest ..))))

theorem Moves.missOverdue (s : State) (p : ProgSlot) (u : TrackSlot) (o : BitVec 32) (tick : Nat) :
    Moves s (s.missOverdue p u o tick) := by
  unfold State.missOverdue
  split
  · exact .refl
  · exact Moves.foldl (fun s c => Moves.cueMissed s p u .late o c) _ s

theorem Moves.armHead (s : State) (u : TrackSlot) : Moves s (s.modAd u AdTrack.armHead) := by
  refine .modAdThin fun a _ => ?_
  unfold AdTrack.armHead
  split
  · exact .refl _
  next h => rw [h]; exact .refl _

theorem Moves.trigger (s : State) (u : TrackSlot) (h : AdCue) : Moves s (s.modAd u fun a => a.trigger h) := by
  refine .modAdThin fun a _ => ?_
  have : (a.trigger h).cues = a.cues.tail := by
    unfold AdTrack.trigger
    dsimp only
    split <;> rfl
  rw [this]
  exact (List.tail_sublist _).map _

theorem Moves.toIdle (s : State) (u : TrackSlot) : Moves s (s.modAd u AdTrack.toIdle) := Moves.modAd s u fun _ => rfl

theorem Moves.goOnRelease (s : State) (p : ProgSlot) (u : TrackSlot) (left : Nat) (c : CurrentCue) :
    Moves s (s.goOnRelease p u left c) := by
  unfold State.goOnRelease
  split
  · exact (Moves.toIdle s u).trans (Moves.cueDone ..)
  · exact Moves.modAd s u fun _ => rfl

theorem Moves.stepIdle (s : State) (p : ProgSlot) (u : TrackSlot) (r : Programme) (a : AdTrack) (o : BitVec 32) (tick : Nat) :
    Moves s (s.stepIdle p u r a o tick) := by
  unfold State.stepIdle
  split
  · exact .refl
  · exact .refl
  · exact Moves.armHead s u
  · exact Moves.trigger ..
  · exact Moves.cueMissed ..

theorem Moves.stepRelease (s : State) (p : ProgSlot) (u : TrackSlot) (r : Programme) (a : AdTrack) (o : BitVec 32) (tick left : Nat)
    (c : CurrentCue) : Moves s (s.stepRelease p u r a o tick left c) := by
  unfold State.stepRelease
  split
  · exact Moves.goOnRelease ..
  · exact Moves.goOnRelease ..
  · exact (Moves.armHead s u).trans (Moves.goOnRelease ..)
  · exact (Moves.trigger ..).trans (Moves.cueDone ..)
  · exact (Moves.cueMissed ..).trans (Moves.goOnRelease ..)

theorem Moves.goOnPlay (s : State) (p : ProgSlot) (u : TrackSlot) (a : AdTrack) (page : Nat) (c : CurrentCue) :
    Moves s (s.goOnPlay p u a page c) := by
  unfold State.goOnPlay
  split
  · split
    · exact (Moves.toIdle s u).trans (Moves.cueDone ..)
    · exact Moves.modAd s u fun _ => rfl
  · exact Moves.modAd s u fun _ => rfl

theorem Moves.actEngine (s : State) (p : ProgSlot) (u : TrackSlot) (o : BitVec 32) (tick : Nat) : Moves s (s.actEngine p u o tick) := by
  unfold State.actEngine
  split
  · split
    · exact Moves.stepIdle ..
    · exact Moves.modAd s u fun _ => rfl
    · exact Moves.goOnPlay ..
    · exact Moves.stepRelease ..
  · exact .refl

/-! ### The take -/

/-- A list after a take keeps ids, starts, ends and lines of the cues left. -/
theorem Moves.tidy (s : State) (u : TrackSlot) (kept : List Nat) (e : Nat) : Moves s (s.modSub u fun b => b.tidy kept e) := by
  cases hu : s.track u with
  | none => rw [State.modSub, State.modTrack, hu, Option.map_none, State.setTrack_of_eq hu]
  | some x =>
    cases hx : x.body with
    | ad a =>
      rw [State.modSub, State.modTrack_of_some hu, Track.modSub, hx]
      exact (State.setTrack_of_eq hu).symm ▸ Relation.ReflTransGen.refl
    | sub b =>
      rw [State.modSub_of_sub hu hx]
      refine Moves.thin hu hx _ ?_ ?_ ?_ ?_
      · intro c; split <;> rfl
      · intro c; split <;> rfl
      · intro c; split <;> rfl
      · intro c; split <;> exact .inl rfl

theorem State.tidyTracks_prog (s : State) (ts : List TrackSlot) (cuts : List TrackCut) (e : Nat) (p : ProgSlot) :
    (s.tidyTracks ts cuts e).prog p = s.prog p := by
  rw [s.tidyTracks_eq]; rfl

theorem State.sub?_eq_some {s : State} {u : TrackSlot} {b : SubTrack} :
    s.sub? u = some b ↔ ∃ x, s.track u = some x ∧ x.body = .sub b := by
  unfold State.sub?
  rw [Option.bind_eq_some_iff]
  refine exists_congr fun x => and_congr_right fun _ => ?_
  unfold Track.sub?
  cases x.body <;> simp

theorem State.ad?_eq_some {s : State} {u : TrackSlot} {a : AdTrack} :
    s.ad? u = some a ↔ ∃ x, s.track u = some x ∧ x.body = .ad a := by
  unfold State.ad?
  rw [Option.bind_eq_some_iff]
  refine exists_congr fun x => and_congr_right fun _ => ?_
  unfold Track.ad?
  cases x.body <;> simp

/-- After the lists of a programme have been tidied every cue in them ends after E (R63). -/
theorem State.stop_of_tidyTracks {s : State} {ts : List TrackSlot} {cuts : List TrackCut} {e : Nat} {u : TrackSlot} (hu : u ∈ ts)
    {b : SubTrack} (hb : (s.tidyTracks ts cuts e).sub? u = some b) : ∀ c ∈ b.cues, e < c.stop := by
  obtain ⟨x, hx, hxb⟩ := State.sub?_eq_some.mp hb
  rw [State.tidyTracks_track, if_pos hu, Option.map_eq_some_iff] at hx
  obtain ⟨y, -, rfl⟩ := hx
  intro c hc
  unfold Track.modSub at hxb
  split at hxb
  · cases hxb; exact SubTrack.stop_of_mem_tidy hc
  next hy => cases hy.symm.trans hxb

theorem Programme.evolves_afterTake (r : Programme) {m : Mark} (h : m.e ≤ maxTick) (skipped dropped : Nat) :
    r.Evolves (r.afterTake m skipped dropped) :=
  ⟨rfl, rfl, .inl rfl, fun ⟨hd, h1, h2, h3, h4, _, h6⟩ => ⟨hd, h1, h2, h3, h4, h, h6⟩⟩

/-- An accepted mark is cut (R57 to R65, R82). -/
theorem Moves.take {s : State} {r : Programme} {m : Mark} (hp : s.prog m.prog = some r) (he : m.e ≤ maxTick)
    (hroom : s.cuts.length < 2) : Moves s (s.take r m) := by
  set cuts := (s.selected r.tracks).map (s.cutTrack m) with hcuts
  have htidy : Moves s (s.tidyTracks r.tracks cuts m.e) := Moves.foldl (fun s u => Moves.tidy s u _ _) _ s
  have hp' : (s.tidyTracks r.tracks cuts m.e).prog m.prog = some r := (s.tidyTracks_prog ..).trans hp
  have hprog : Moves (s.tidyTracks r.tracks cuts m.e) ((s.tidyTracks r.tracks cuts m.e).modProg m.prog fun r =>
      r.afterTake m (skippedBy m (s.selected r.tracks)) (cuts.map (·.dropped)).sum) := by
    rw [State.modProg_of_some hp']
    exact (Move.prog _ r _ hp' (r.evolves_afterTake he _ _) (.inr fun u hu b hb => State.stop_of_tidyTracks hu hb)).moves
  have hpost : ∀ s : State, Moves s (s.postOverflows m cuts) := Moves.foldl (fun s c => Moves.post ..) _
  have hwindows : ∀ s : State, Moves s (s.completeWindows m.prog r.tracks m.e) :=
    Moves.foldl (fun s u => by split; exact Moves.completeConceal ..; exact .refl) _
  have hfill : ∀ s : State, s.cuts.length < 2 → Moves s (s.fillBuffer m.prog cuts) := by
    intro s hs
    unfold State.fillBuffer
    split
    · exact .refl
    · exact Moves.cuts (.append hs _)
  refine htidy.trans (Relation.ReflTransGen.trans ?_ ((hpost _).trans ((hwindows _).trans (hfill _ ?_))))
  · rw [State.modProg_of_some hp'] at hprog ⊢
    exact hprog
  · rw [State.completeWindows_eq, State.postOverflows_eq]
    show ((s.tidyTracks r.tracks cuts m.e).cuts).length < 2
    rw [State.tidyTracks_eq]
    exact hroom

/-! ### Completions -/

/-- Every track of a list cleared: its list is empty. -/
theorem Moves.cleared (s : State) (u : TrackSlot) : Moves s (s.modTrack u Track.cleared) := by
  cases hu : s.track u with
  | none => rw [State.modTrack, hu, Option.map_none, State.setTrack_of_eq hu]
  | some x =>
    rw [State.modTrack_of_some hu]
    cases hx : x.body with
    | sub b =>
      have hlist := (Move.subList u x b [] hu hx (fun _ => b.ordered_nil) nofun (Nat.zero_le _) (Nat.zero_le _)).moves
      have hfields := (Move.track u { x with body := .sub { b with cues := [] } } x.cleared
        (s := s.setTrack u (some { x with body := .sub { b with cues := [] } })) (by simp)
        ⟨rfl, rfl, by simp [Track.cleared, hx, Track.sub?], by simp [Track.cleared, hx, Track.ad?]⟩).moves
      rw [State.setTrack_setTrack] at hfields
      exact hlist.trans hfields
    | ad a =>
      have hlist := (Move.adList u x a [] hu hx (fun _ => a.ordered_nil) (Nat.zero_le _)).moves
      have hfields := (Move.track u { x with body := .ad { a with cues := [] } } x.cleared
        (s := s.setTrack u (some { x with body := .ad { a with cues := [] } })) (by simp)
        ⟨rfl, rfl, by simp [Track.cleared, hx, Track.sub?], by simp [Track.cleared, hx, Track.ad?]⟩).moves
      rw [State.setTrack_setTrack] at hfields
      exact hlist.trans hfields

theorem State.cues_of_clearTracks {s : State} {ts : List TrackSlot} {u : TrackSlot} (hu : u ∈ ts) {b : SubTrack}
    (hb : (s.clearTracks ts).sub? u = some b) : b.cues = [] := by
  obtain ⟨x, hx, hxb⟩ := State.sub?_eq_some.mp hb
  rw [State.clearTracks_track, if_pos hu, Option.map_eq_some_iff] at hx
  obtain ⟨y, -, rfl⟩ := hx
  unfold Track.cleared at hxb
  dsimp only at hxb
  split at hxb <;> cases hxb
  rfl

theorem Moves.dropClips (s : State) (p : ProgSlot) : Moves s (s.dropClips p) := (Move.freeClips _ List.filter_sublist).moves

/-- A programme restarted from its deferred reset is sound (R19). -/
theorem Programme.evolves_restarted (r : Programme) : r.Evolves r.restarted := by
  refine ⟨rfl, rfl, .inr rfl, fun ⟨_, h1, h2, h3, h4, h5, h6, h7, _⟩ => ⟨⟨?_, ?_⟩, ?_⟩⟩
  · exact iff_of_false nofun nofun
  · exact iff_of_false nofun nofun
  · exact ⟨le_rfl, Nat.zero_le _, Nat.zero_le _, h4, h4, h4, h7, fun _ => rfl, nofun⟩

theorem Moves.restart {s : State} {p : ProgSlot} {r : Programme} (hp : s.prog p = some r) :
    Moves s (((s.clearTracks r.tracks).dropClips p).setProg p (some r.restarted)) := by
  have hclear : Moves s (s.clearTracks r.tracks) := Moves.foldl Moves.cleared _ s
  have hp' : ((s.clearTracks r.tracks).dropClips p).prog p = some r := by
    rw [State.clearTracks_eq]; exact hp
  refine hclear.trans ((Moves.dropClips _ p).trans (Move.moves ?_))
  refine Move.prog p r _ hp' r.evolves_restarted (.inr fun u hu b hb => ?_)
  rw [State.cues_of_clearTracks hu hb]
  exact nofun

/-- Programme writes and reference drops commute, for they write different tables. -/
theorem State.dropReferences_setProg (s : State) (p : ProgSlot) (r : Option Programme) (ts : List TrackSlot) (t : TrackSlot) :
    (s.setProg p r).dropReferences ts t = (s.dropReferences ts t).setProg p r := by
  induction ts generalizing s with
  | nil => rfl
  | cons u ts ih =>
    show ((s.setProg p r).modTrack u _).dropReferences ts t = ((s.modTrack u _).dropReferences ts t).setProg p r
    rw [← ih]
    rfl

theorem State.freeTrack_eq {s : State} {p : ProgSlot} {r : Programme} (hp : s.prog p = some r) (u : TrackSlot) :
    let t := ((s.setTrack u none).setProg p (some { r with tracks := r.tracks.erase u, deferred := none })).dropReferences
      (r.tracks.erase u) u
    s.freeTrack p r u = { t with clips := s.clips.filter fun c =>
      !(decide (c.prog = p) && decide (c.id ∈ s.trackClipIds u) && !t.references p c.id) } := by
  intro t
  have ht : t = ((s.setTrack u none).dropReferences (r.tracks.erase u) u).setProg p
      (some { r with tracks := r.tracks.erase u, deferred := none }) := State.dropReferences_setProg ..
  have hclips : ((s.setTrack u none).dropReferences (r.tracks.erase u) u).clips = s.clips := by
    rw [State.dropReferences_eq]; rfl
  have hprog : ((s.setTrack u none).dropReferences (r.tracks.erase u) u).prog p = some r := by
    rw [State.dropReferences_eq]; exact hp
  unfold State.freeTrack
  dsimp only
  rw [foldl_freeingTest, hclips, ht, State.modProg]
  exact congrArg (State.setProg _ p) ((congrArg (Option.map _) hprog).trans rfl)

theorem Moves.freeTrack {s : State} {p : ProgSlot} {r : Programme} {d : Deferred} {u : TrackSlot} (hp : s.prog p = some r)
    (hd : r.deferred = some d) (hk : d.kind = .closeTrack u) : Moves s (s.freeTrack p r u) := by
  have hrefs : ∀ (ts : List TrackSlot) (s : State), Moves s (s.dropReferences ts u) := fun ts s =>
    Moves.foldl (f := fun s v => s.modTrack v (·.dropReference u)) (fun s v => .modTrack fun x _ => x.evolves_modSub fun _ => rfl) ts s
  rw [State.freeTrack_eq hp]
  refine (Move.freeTrack p r d u hp hd hk).moves.trans ((hrefs _ _).trans (Move.moves (Move.freeClips _ ?_)))
  rw [State.dropReferences_eq]
  exact List.filter_sublist

/-! ### Requests -/

/-- The reply fills the last CTL place. -/
theorem Moves.replyTo (s : State) (q : Request) (a : Answer) : Moves s (s.replyTo q a) := by
  refine Moves.setCtl ?_ ?_
  · rcases s.egress.ctl.eq_nil_or_concat with h | ⟨l, c, h⟩
    · exact .inr (by simp [h])
    · exact .inl (by simp [h])
  · intro h
    match hctl : s.egress.ctl with
    | [] => rfl
    | [_] => rfl
    | c :: c' :: l => rw [hctl] at h; exact h

theorem Moves.takeRequest {s : State} {names : Byte → Bool} {work : State → Request → Worked}
    (h : ∀ q rest, Moves (s.reserve q rest) (work (s.reserve q rest) q).1) : Moves s (s.takeRequest names work) := by
  unfold State.takeRequest
  split
  · exact .refl
  next q rest hq =>
    split
    next hc =>
      have hroom : s.egress.ctl.length < 16 := by
        simp only [State.canTake, State.ctlFree, Config.ctlQueue, Bool.and_eq_true, bne_iff_ne] at hc
        omega
      have hreserve : Moves s (s.reserve q rest) :=
        (Moves.requestQ (.tail 4 hq)).trans (Moves.appendCtl (s := { s with requestQ := rest }) hroom _)
      have hwork := hreserve.trans (h q rest)
      split
      next heq =>
        rw [heq] at hwork
        exact hwork.trans (Moves.replyTo ..)
      next heq =>
        rw [heq] at hwork
        exact hwork
    next => exact .refl

/-- A request that is judged by its programme moves as its work does. -/
theorem Moves.judged {s : State} {q : Request} {inHalted : Bool} {n : Nat} {work : Programme → Worked}
    (h : ∀ r, s.prog q.prog = some r → r.takes → Moves s (work r).1) : Moves s (s.judged q inHalted n work).1 := by
  unfold State.judged
  split
  · exact .refl
  next r hj =>
    split
    next =>
      unfold State.judge at hj
      split at hj
      · cases hj
      next r' hp =>
        split at hj
        · cases hj
        next hd =>
          have hd : r'.deferred = none := by simpa using hd
          split at hj
          next hs => cases hj; exact h r hp ⟨.inl hs, hd⟩
          next hs =>
            split at hj <;> cases hj
            exact h r hp ⟨.inr hs, hd⟩
          next => cases hj
          next => cases hj
    next => exact .refl

theorem Moves.workIdentify (s : State) (q : Request) : Moves s (workIdentify s q).1 := by
  unfold Machine.workIdentify
  split <;> exact .refl

theorem OpenParams.timebase_of_inRange {o : OpenParams} (h : o.inRange = true) :
    o.timebase.origin ≤ maxTick ∧ o.threshold ≤ 32767 := by
  simp only [OpenParams.inRange, Bool.and_eq_true, decide_eq_true_eq] at h
  obtain ⟨⟨⟨-, horigin⟩, hthreshold⟩, -⟩ := h
  exact ⟨horigin, hthreshold⟩

theorem freshProgramme_sound {stream : Byte} {tb : Timebase} {threshold : Nat} {escalation : BitVec 8} {ts : List TrackSlot}
    (horigin : tb.origin ≤ maxTick) (hthreshold : threshold ≤ 32767) : (freshProgramme stream tb threshold escalation ts).Sound :=
  ⟨⟨iff_of_false nofun nofun, iff_of_false nofun nofun⟩,
    le_rfl, Nat.zero_le _, Nat.zero_le _, horigin, horigin, horigin, hthreshold, fun _ => rfl, nofun⟩

theorem Moves.workOpenProgramme (s : State) (q : Request) : Moves s (workOpenProgramme s q).1 := by
  unfold Machine.workOpenProgramme
  split
  · exact .refl
  next hp =>
    dsimp only
    split
    · exact .refl
    split
    · exact .refl
    next hrange =>
      split
      · exact .refl
      next hstream =>
        obtain ⟨horigin, hthreshold⟩ := OpenParams.timebase_of_inRange (by simpa using hrange)
        exact (Move.openProgramme _ _ hp (freshProgramme_sound horigin hthreshold) rfl rfl (Bool.eq_false_of_not_eq_true hstream)).moves

theorem Moves.workSetProgramme (s : State) (q : Request) : Moves s (workSetProgramme s q).1 := by
  refine Moves.judged fun r _ _ => ?_
  split
  · exact .refl
  next h =>
    refine Moves.modProg fun r _ => Programme.serves_of_eq rfl rfl rfl rfl rfl fun ⟨h1, h2, h3, h4, h5, h6, _, h8⟩ =>
      ⟨h1, h2, h3, h4, h5, h6, ?_, h8⟩
    show fieldAt q.params 0 2 ≤ 32767
    omega

theorem Moves.defer {s : State} {q : Request} {r : Programme} {kind : DeferredKind} (hp : s.prog q.prog = some r) (hr : r.takes)
    (hreset : kind ≠ .resetProgramme) (hclose : kind ≠ .closeProgramme)
    (htrack : ∀ u, kind = .closeTrack u → ∃ x, s.track u = some x ∧ x.prog = q.prog) : Moves s (s.defer q kind) := by
  rw [State.defer, State.modProg_of_some hp]
  exact (Move.defer q.prog r ⟨kind, q.tag, q.stream⟩ r.state hp hr (.inr (.inr ⟨rfl, hreset, hclose⟩)) htrack).moves

theorem Moves.beginDrain {s : State} {q : Request} {r : Programme} {state : ProgState} {kind : DeferredKind}
    (hp : s.prog q.prog = some r) (hr : r.takes)
    (hdrain : state = .draining ∧ kind = .resetProgramme ∨ state = .closing ∧ kind = .closeProgramme) :
    Moves s (s.beginDrain q state kind) := by
  have hmove := Move.defer q.prog r ⟨kind, q.tag, q.stream⟩ state hp hr (hdrain.imp_right .inl)
    (fun u hk => by rcases hdrain with ⟨-, h⟩ | ⟨-, h⟩ <;> cases h.symm.trans hk)
  have heq : (s.modProg q.prog fun r => { r with state := state }).defer q kind
      = s.setProg q.prog (some { r with state := state, deferred := some ⟨kind, q.tag, q.stream⟩ }) := by
    rw [State.modProg_of_some hp, State.defer, State.setProg_modProg]
  rw [State.beginDrain, heq]
  exact hmove.moves.trans (Moves.of_inner rfl)

theorem Moves.workCloseProgramme (s : State) (q : Request) : Moves s (workCloseProgramme s q).1 :=
  Moves.judged fun _ hp hr => Moves.beginDrain hp hr (.inr ⟨rfl, rfl⟩)

theorem Moves.workResetProgramme (s : State) (q : Request) : Moves s (workResetProgramme s q).1 :=
  Moves.judged fun _ hp hr => Moves.beginDrain hp hr (.inl ⟨rfl, rfl⟩)

theorem State.openTrackSlot_eq_ok {s : State} {p : ProgSlot} {r : Programme} {tp : TrackParams} {u : TrackSlot}
    (h : s.openTrackSlot p r tp = .ok u) : s.streamInUse tp.stream = false ∧ s.track u = none := by
  unfold State.openTrackSlot at h
  split at h
  · cases h
  split at h
  · cases h
  next hstream =>
    split at h
    · cases h
    split at h
    · cases h
    next hfree =>
      cases h
      exact ⟨by simpa using hstream, by simpa using List.find?_some hfree⟩

theorem TrackParams.opened_spec (tp : TrackParams) (p : ProgSlot) :
    (tp.opened p).prog = p ∧ (tp.opened p).stream = tp.stream ∧ (tp.opened p).body.cueCount = 0 := by
  cases tp <;> exact ⟨rfl, rfl, rfl⟩

theorem Moves.workOpenTrack (s : State) (q : Request) : Moves s (workOpenTrack s q).1 := by
  refine Moves.judged fun r hp _ => ?_
  split
  · exact .refl
  next tp _ =>
    split
    · exact .refl
    next u hslot =>
      obtain ⟨hstream, hfree⟩ := State.openTrackSlot_eq_ok hslot
      obtain ⟨hprog, hopened, hcues⟩ := tp.opened_spec q.prog
      show Moves s ((s.setTrack u (some (tp.opened q.prog))).modProg q.prog _)
      rw [State.modProg_of_some (r := r) (by exact hp)]
      exact (Move.openTrack _ r u _ hp hfree hprog hcues (hopened.symm ▸ hstream)).moves

theorem Track.evolves_closing (x : Track) : x.Evolves x.closing :=
  (x.evolves_modSub (f := fun b => { b with window := none, outcome := none }) fun _ => rfl).trans (Track.evolves_state _ .closing)

theorem Moves.workCloseTrack (s : State) (q : Request) : Moves s (workCloseTrack s q).1 := by
  refine Moves.judged fun r hp hr => ?_
  split
  · exact .refl
  next u x hx =>
    obtain ⟨hu, hprog⟩ := State.track_of_trackOf hx
    have hclosing : Moves s (s.modTrack u Track.closing) := .modTrack fun x _ => x.evolves_closing
    refine hclosing.trans (Moves.defer (r := r) hp hr nofun nofun ?_)
    rintro v ⟨⟩
    refine ⟨x.closing, by simp [hu], ?_⟩
    rw [x.evolves_closing.prog, hprog]

theorem Moves.workLoadStyle (s : State) (q : Request) : Moves s (workLoadStyle s q).1 := by
  refine Moves.judged fun r hp hr => ?_
  split
  · exact .refl
  split
  · exact .refl
  split
  · exact .refl
  split
  · exact .refl
  split
  · exact .refl
  · exact Moves.modSub s _ fun _ => rfl

/-! ### Concealment -/

theorem SubCue.trimTo_spec (c : SubCue) (f : Nat) :
    (c.trimTo f).id = c.id ∧ (c.trimTo f).start = c.start ∧ (c.trimTo f).lines = c.lines ∧
      ((c.trimTo f).stop = c.stop ∨ c.crosses f = true ∧ (c.trimTo f).stop = f) := by
  unfold SubCue.trimTo
  split
  next h => exact ⟨rfl, rfl, rfl, .inr ⟨h, rfl⟩⟩
  next => exact ⟨rfl, rfl, rfl, .inl rfl⟩

/-- Clearing a window that begins at or after the cut line leaves no cue that ends at or before it (R76). -/
theorem Moves.clearOwn {s : State} {p : ProgSlot} {r : Programme} {u : TrackSlot} {x : Track} {b : SubTrack}
    (hp : s.prog p = some r) (hu : s.track u = some x) (hx : x.prog = p) (hb : x.body = .sub b) {f : Nat} (hf : r.cutLine ≤ f)
    (stop : Option Nat) : Moves s (s.clearOwn p u b.cues f r.cutLine stop) := by
  refine Relation.ReflTransGen.trans ?_ (Moves.countIn _ p _)
  rw [State.modSub_of_sub hu hb]
  refine Moves.thin hu hb _ (fun c => (c.trimTo_spec f).1) (fun c => (c.trimTo_spec f).2.1) (fun c => (c.trimTo_spec f).2.2.1)
    fun c => ?_
  obtain ⟨-, -, -, hstop | ⟨hcross, hstop⟩⟩ := c.trimTo_spec f
  · exact .inl hstop
  · refine .inr ⟨?_, fun hkeep r' hr' => ?_⟩
    · simp only [SubCue.crosses, Bool.and_eq_true, decide_eq_true_eq] at hcross
      rw [hstop]; exact hcross.1
    · cases (hx ▸ hp).symm.trans hr'
      rw [hstop]
      have hne : f ≠ r.cutLine := by
        rintro rfl
        simp [SubCue.clearedBy, hcross] at hkeep
      omega

theorem Moves.concealAtOnce (s : State) (p : ProgSlot) (u : TrackSlot) (w : Window) : Moves s (s.concealAtOnce p u w).1 :=
  (Moves.modSub s u (f := fun b => { b with window := some w, outcome := some .nothingToRepair }) fun _ => rfl).trans
    (Moves.raiseConcealDone ..)

theorem Moves.concealBegins (s : State) (u : TrackSlot) (w : Window) : Moves s (s.concealBegins u w).1 :=
  Moves.modTrack fun x _ => (x.evolves_modSub (f := fun b => { b with window := some w, outcome := none }) fun _ => rfl).trans
    (Track.evolves_state _ .concealing)

theorem State.concealTrack_eq_ok {s : State} {q : Request} {ticks : List Nat} {u : TrackSlot} {b : SubTrack}
    (h : s.concealTrack q ticks = .ok (u, b)) : ∃ x, s.track u = some x ∧ x.prog = q.prog ∧ x.body = .sub b := by
  unfold State.concealTrack at h
  split at h
  · cases h
  next u' x hx =>
    obtain ⟨hu, hprog⟩ := State.track_of_trackOf hx
    split at h
    · cases h
    next b' hb =>
      split at h
      · cases h
      split at h
      · cases h
        refine ⟨x, hu, hprog, ?_⟩
        unfold Track.sub? at hb
        split at hb
        next heq => cases hb; exact heq
        next => cases hb
      · cases h

theorem Moves.workConcealSpan (s : State) (q : Request) : Moves s (workConcealSpan s q).1 := by
  refine Moves.judged fun r hp _ => ?_
  split
  · exact .refl
  next u b hub =>
    obtain ⟨x, hu, hx, hb⟩ := State.concealTrack_eq_ok hub
    unfold State.concealSpanFrom
    split
    · exact Moves.concealAtOnce ..
    · exact (Moves.clearOwn hp hu hx hb (le_max_right _ _) _).trans (Moves.concealBegins ..)

theorem Moves.workConcealUntilResume (s : State) (q : Request) : Moves s (workConcealUntilResume s q).1 := by
  refine Moves.judged fun r hp _ => ?_
  split
  · exact .refl
  next u b hub =>
    obtain ⟨x, hu, hx, hb⟩ := State.concealTrack_eq_ok hub
    have hclear := Moves.clearOwn hp hu hx hb (le_max_right (fieldAt q.params 1 8) r.cutLine) none
    unfold State.concealFrom
    dsimp only
    split
    · exact hclear.trans (Moves.concealAtOnce ..)
    · exact hclear.trans (Moves.concealBegins ..)

/-! ### FENCE, reads, settings, UNIT-RESET -/

theorem Moves.placeMarker (s : State) (p : ProgSlot) (tag : BitVec 16) : Moves s (s.placeMarker p tag) := by
  unfold State.placeMarker
  split
  next hroom =>
    rw [State.loaderRoom_eq, decide_eq_true_eq] at hroom
    exact (Moves.loaderQ (.append hroom _)).trans (Moves.of_inner rfl)
  next => exact .of_inner rfl

theorem Moves.workFence (s : State) (q : Request) : Moves s (workFence s q).1 :=
  Moves.judged fun _ hp hr => (Moves.defer (kind := .fence) hp hr nofun nofun nofun).trans (Moves.placeMarker ..)

theorem Moves.workReadProgramme (s : State) (q : Request) : Moves s (workReadProgramme s q).1 :=
  Moves.judged fun _ _ _ => .refl

theorem Moves.workReadTrack (s : State) (q : Request) : Moves s (workReadTrack s q).1 := by
  refine Moves.judged fun _ _ _ => ?_
  split <;> exact .refl

theorem Moves.workReadCounters (s : State) (q : Request) : Moves s (workReadCounters s q).1 := by
  unfold Machine.workReadCounters
  split
  · refine Moves.judged fun _ _ _ => ?_
    show Moves s (if clearFlag q = true then s.countIn q.prog fun _ => .zero else s)
    split
    · exact Moves.countIn ..
    · exact .refl
  split
  · show Moves s (if clearFlag q = true then { s with counters := .zero } else s)
    split
    · exact .of_inner rfl
    · exact .refl
  · exact .refl

theorem GrantMode.legal_of_grantModeOf {mode n : Byte} {m : GrantMode} (h : grantModeOf mode n = some m) : m.legal := by
  unfold grantModeOf at h
  split at h
  · cases h; trivial
  split at h
  next hc =>
    cases h
    simp only [Bool.and_eq_true, decide_eq_true_eq] at hc
    exact ⟨hc.1.2, hc.2⟩
  next => cases h

theorem EgressSettings.legal_of_egressSettingsOf {ps : List Byte} {x : EgressSettings} (h : egressSettingsOf ps = some x) :
    x.legal := by
  unfold egressSettingsOf at h
  dsimp only at h
  split at h
  next hc hm hg ht =>
    cases h
    exact ⟨GrantMode.legal_of_grantModeOf hc, GrantMode.legal_of_grantModeOf hm, GrantMode.legal_of_grantModeOf hg,
      GrantMode.legal_of_grantModeOf ht⟩
  next => cases h

theorem Moves.workSetEgress (s : State) (q : Request) : Moves s (workSetEgress s q).1 := by
  unfold Machine.workSetEgress
  split
  · exact .refl
  split
  · exact .refl
  next x hx => exact (Move.egress _ (.settings x (EgressSettings.legal_of_egressSettingsOf hx))).moves

theorem reserveForUnit_append (l : List CtlPlace) (c : CtlPlace) : reserveForUnit (l ++ [c]) = l ++ [.reservedForUnit] := by
  simp [reserveForUnit]

/-- The place reserved at the taking becomes the unit's, and the receiver is CLOSED with no place reserved (R138, R151). -/
theorem Moves.workUnitReset (s : State) (q : Request) (rest : List Request) :
    Moves (s.reserve q rest) (workUnitReset (s.reserve q rest) q).1 := by
  unfold Machine.workUnitReset
  split
  · exact .refl
  · have hrx : Moves (s.reserve q rest) { s.reserve q rest with rx := { s.rx with closed := true, framing := .hunt false [] } } := by
      refine Moves.receive fun ⟨hplaces, hcredit⟩ => ?_
      have hrx : (s.reserve q rest).rx = s.rx := rfl
      simp only [hrx, Receiver.Fits, Receiver.freePlaces] at hplaces hcredit ⊢
      simp only [Receiver.reservedPlaces]
      omega
    have hreset : Moves { s.reserve q rest with rx := { s.rx with closed := true, framing := .hunt false [] } }
        { s.reserve q rest with
          unitReset := some ⟨q.tag, q.stream, q.prog, false⟩
          rx := { s.rx with closed := true, framing := .hunt false [] } } := Moves.of_inner rfl
    have hctl : reserveForUnit (s.reserve q rest).egress.ctl = s.egress.ctl ++ [.reservedForUnit] := reserveForUnit_append ..
    rw [hctl]
    refine hrx.trans (hreset.trans (Moves.setCtl (.inl ?_) ?_))
    · show (s.egress.ctl ++ [CtlPlace.reservedForUnit]).length ≤ (s.egress.ctl ++ [CtlPlace.reserved q.prog]).length
      simp
    · show ((s.egress.ctl ++ [CtlPlace.reserved q.prog]).head?.bind _).isSome = true → _
      cases s.egress.ctl with
      | nil => exact nofun
      | cons c l => exact id

end Sys2Proof.Machine
end

section
/-! PROOF. Every command answers a state that the part reaches by moves, and what every move keeps every step keeps. -/

namespace Sys2Proof.Machine

/-! ### Every command -/

/-- A command answers a next state that the state can become. -/
def Answers (s : State) (o : Outcome) : Prop := ∃ t, o = .next t ∧ Moves s t

theorem Moves.answers {s t : State} (h : Moves s t) : Answers s (.next t) := ⟨t, rfl, h⟩

theorem answers_self (s : State) : Answers s (.next s) := Moves.answers .refl

theorem answers_resetAtOnce (straps : BitVec 4) (s : State) : Answers s (.next (s.resetAtOnce straps)) :=
  Moves.answers (Move.reset straps _).moves

theorem answers_headerAccepted (bytes : List Byte) (s : State) : Answers s (execHeaderAccepted bytes s) := by
  unfold execHeaderAccepted
  split
  · exact answers_self s
  split
  · exact answers_self s
  next ha => exact Moves.answers (Moves.acceptHeader ha)

theorem answers_headerFailure (bytes : List Byte) (s : State) : Answers s (execHeaderFailure bytes s) := by
  unfold execHeaderFailure
  split
  · exact answers_self s
  next h =>
    have hheader : s.rx.framing = .header := by
      simp only [Bool.or_eq_true, not_or, bne_iff_ne, ne_eq, not_not] at h
      exact h.1.1.2
    have hhunt : Moves s { s with rx := { s.rx with framing := .hunt true bytes.tail } } := by
      refine Moves.receive fun ⟨hplaces, hcredit⟩ => ?_
      simp only [Receiver.Fits, Receiver.freePlaces, Receiver.reservedPlaces, hheader] at hplaces hcredit ⊢
      exact ⟨hplaces, hcredit⟩
    exact Moves.answers (hhunt.trans (Moves.of_inner rfl))

theorem answers_overrun (bytes : List Byte) (s : State) : Answers s (execOverrun bytes s) := by
  unfold execOverrun
  split
  next h hf =>
    split
    · exact answers_self s
    · have hheader : Moves s { s with rx := { s.rx with framing := .header } } := by
        refine Moves.receive fun ⟨hplaces, hcredit⟩ => ?_
        simp only [Receiver.Fits, Receiver.freePlaces, Receiver.reservedPlaces, hf] at hplaces hcredit ⊢
        exact ⟨hplaces, hcredit⟩
      exact Moves.answers (hheader.trans (Moves.of_inner rfl))
  · exact answers_self s
  · exact answers_self s
  · exact answers_self s

theorem answers_takenWhole (bytes : List Byte) (s : State) : Answers s (execTakenWhole bytes s) := by
  unfold execTakenWhole
  split
  next h hf =>
    split
    · exact answers_self s
    · exact Moves.answers (Moves.takeWhole hf _)
  · exact answers_self s
  · exact answers_self s
  · exact answers_self s

theorem answers_routing (s : State) : Answers s (execRouting s) := by
  unfold execRouting
  split
  · exact answers_self s
  next e rest hb =>
    split
    · exact Moves.answers (Moves.routeAudio hb)
    · exact Moves.answers (Moves.routeMark hb)
    · exact Moves.answers (Moves.routePosted hb)
    · exact Moves.answers (Moves.routeRequest hb)
    · exact Moves.answers (Moves.routeForeign hb)

theorem answers_egressCredit (s : State) : Answers s (execEgressCredit s) :=
  Moves.answers (Move.egress _ (.credit _ (min_le_left _ _))).moves

theorem answers_egressCreditRestart (s : State) : Answers s (execEgressCreditRestart s) :=
  Moves.answers (Move.egress _ (.credit 0 (Nat.zero_le _))).moves

theorem answers_grant (s : State) : Answers s (execGrant s) := Moves.answers (Move.egress _ .grant).moves

theorem answers_parcelLeft (straps : BitVec 4) (s : State) : Answers s (execParcelLeft straps s) := by
  unfold execParcelLeft
  split
  · exact answers_self s
  next g hg =>
    split
    · exact answers_self s
    split
    · exact Moves.answers (Move.reset straps _).moves
    · exact Moves.answers ((Move.egress _ (.left g hg)).moves.trans (Moves.of_inner rfl))

theorem answers_loaderTake (s : State) : Answers s (execLoaderTake s) := by
  cases hl : s.loading with
  | some l => simp only [execLoaderTake, hl]; exact answers_self s
  | none =>
    cases hq : s.loaderQ with
    | nil => simp only [execLoaderTake, hl, hq]; exact answers_self s
    | cons e rest =>
      rw [execLoaderTake_of_head hl hq]
      have htaken : Moves s { s with loaderQ := rest } := Moves.loaderQ (.tail 32 hq)
      cases e with
      | cueload p o => exact Moves.answers (htaken.trans (Moves.takeParcel (Moves.takeCueload _ p o) _ _ _))
      | narration p o => exact Moves.answers (htaken.trans (Moves.takeParcel (Moves.of_inner rfl) _ _ _))
      | fence p tag => exact Moves.answers (htaken.trans (Moves.answerFence _ p))

theorem answers_place (s : State) : Answers s (execPlace s) :=
  Moves.answers (Moves.reachRecord fun _ _ _ _ hp h => Moves.applyPlace hp h)

theorem answers_withdraw (s : State) : Answers s (execWithdraw s) :=
  Moves.answers (Moves.reachRecord fun _ _ _ _ _ h => Moves.applyWithdraw h)

theorem answers_cueRecordOtherOp (s : State) : Answers s (execCueRecordOtherOp s) := by
  refine Moves.answers (Moves.reachRecord fun c r rec t _ h => ?_)
  unfold State.applyOther at h
  split at h <;> cases h

theorem Moves.applyPage (s : State) (p : ProgSlot) (g : PageLoad) (o : BitVec 32) : Moves s (s.applyPage p g o) := by
  unfold State.applyPage
  split
  · exact Moves.post ..
  next h => exact (Move.storePage p g h).moves

theorem answers_narrationPage (s : State) : Answers s (execNarrationPage s) := by
  unfold execNarrationPage
  split
  · exact answers_self s
  · exact answers_self s
  next q o _ =>
    have htaken : Moves s { s with loading := none } := .of_inner rfl
    dsimp only
    split
    · exact Moves.answers (htaken.trans (Moves.of_inner rfl))
    split
    · exact Moves.answers (htaken.trans (Moves.post ..))
    · exact Moves.answers (htaken.trans (Moves.applyPage ..))
    · exact Moves.answers (htaken.trans (Moves.applyPage ..))
    · exact Moves.answers (htaken.trans (Moves.applyPage ..))

theorem Mark.e_le_of_passes {m : Mark} {r : Programme} (h : m.passes r = true) : m.e ≤ maxTick := by
  simp only [Mark.passes, Bool.and_eq_true, decide_eq_true_eq] at h
  exact h.1.1.1.1.2

theorem answers_markTaken (s : State) : Answers s (execMarkTaken s) := by
  unfold execMarkTaken
  split
  · exact answers_self s
  next m rest hq =>
    have htaken : Moves s { s with markQ := rest } := Moves.markQ (.tail 8 hq)
    dsimp only
    split
    · exact Moves.answers (htaken.trans (Moves.of_inner rfl))
    next r hp =>
      split
      · exact Moves.answers (htaken.trans (Moves.of_inner rfl))
      split
      · exact Moves.answers htaken
      · exact Moves.answers (htaken.trans (Moves.of_inner rfl))
      · exact Moves.answers (htaken.trans (Moves.of_inner rfl))
      split
      next hroom =>
        refine Moves.answers (htaken.trans ?_)
        unfold State.judgeMark
        split
        next hpass => exact Moves.take hp (Mark.e_le_of_passes hpass) hroom
        next => exact Moves.post ..
      next => exact answers_self s

theorem answers_subsegPlaced (s : State) : Answers s (execSubsegPlaced s) := by
  unfold execSubsegPlaced
  split
  · exact answers_self s
  next c rest hc =>
    split
    · exact Moves.answers (Moves.cuts (.tail 2 hc))
    next u left _ =>
      split
      next hroom =>
        have hcuts : Moves s { s with cuts := cutsAfter c.prog left rest } := by
          refine Moves.cuts (.inl ?_)
          rw [hc]
          unfold cutsAfter
          split
          · exact Nat.le_succ _
          · exact le_rfl
        refine Moves.answers (hcuts.trans (Move.moves ?_))
        refine Move.egress (s := { s with cuts := cutsAfter c.prog left rest }) _ (.queues s.egress.thru _ s.egress.mix s.egress.ctl
          (.refl ..) (.append hroom _) (.refl ..) (.refl ..) fun r h => ?_)
        cases r
        case seg =>
          change (s.egress.seg ++ [_]).head?.isSome = true
          simp
        all_goals exact h
      next => exact answers_self s

theorem answers_audioTake (s : State) : Answers s (execAudioTake s) := by
  unfold execAudioTake
  split
  · exact answers_self s
  split
  · exact answers_self s
  next c rest hq =>
    have htaken : Moves s { s with audioQ := rest } := Moves.audioQ (.tail 8 hq)
    have hheard : Moves s ({ s with audioQ := rest }.modProg c.prog (·.hear c.taken)) :=
      htaken.trans (Moves.modProg fun r _ => r.serves_hear c)
    dsimp only
    split
    · exact Moves.answers (htaken.trans (Moves.of_inner rfl))
    split
    · exact Moves.answers (htaken.trans (Moves.of_inner rfl))
    split
    · exact Moves.answers (htaken.trans (Moves.of_inner rfl))
    · exact Moves.answers (htaken.trans (Moves.makeCurrent ..))
    · exact Moves.answers (hheard.trans (Moves.makeCurrent ..))
    · exact Moves.answers (hheard.trans (Moves.makeCurrent ..))

theorem answers_adAudioPlaced (s : State) : Answers s (execAdAudioPlaced s) := by
  unfold execAdAudioPlaced
  split
  · exact answers_self s
  split
  · exact Moves.answers (Moves.placeMix ..)
  split
  · exact answers_self s
  split
  · exact Moves.answers (Moves.continueAudio ..)
  split
  · exact Moves.answers (Moves.continueAudio ..)
  · exact Moves.answers ((Moves.writeRendering ..).trans (Moves.placeMix ..))

theorem answers_eventStep (s : State) : Answers s (execEventStep s) := by
  unfold execEventStep
  split
  · exact answers_self s
  split
  · exact answers_self s
  split
  · exact answers_self s
  dsimp only
  split
  · exact Moves.answers (Moves.continueAudio ..)
  · exact Moves.answers ((Moves.continueAudio ..).trans ((Moves.missOverdue ..).trans (Moves.actEngine ..)))

theorem answers_fenceMarkerPlaced (s : State) : Answers s (execFenceMarkerPlaced s) := by
  unfold execFenceMarkerPlaced
  split
  · exact answers_self s
  split
  · split
    · exact Moves.answers (Moves.placeMarker ..)
    · exact Moves.answers (Moves.of_inner rfl)
  · exact answers_self s

theorem answers_requestDiscard (s : State) : Answers s (execRequestDiscard s) := by
  unfold execRequestDiscard
  split
  next hq => exact Moves.answers ((Moves.requestQ (.tail 4 hq)).trans (Moves.of_inner rfl))
  next => exact answers_self s

/-- A deferred request is one of a programme in use. -/
theorem State.deferredOf_eq_some {s : State} {p : ProgSlot} {r : Programme} {d : Deferred} (h : s.deferredOf p = some (r, d)) :
    s.prog p = some r ∧ r.deferred = some d := by
  unfold State.deferredOf at h
  rw [Option.bind_eq_some_iff] at h
  obtain ⟨r', hp, hmap⟩ := h
  obtain ⟨d', hd, heq⟩ := Option.map_eq_some_iff.mp hmap
  cases heq
  exact ⟨hp, hd⟩

theorem answers_resetProgrammeComplete (p : ProgSlot) (s : State) : Answers s (execResetProgrammeComplete p s) := by
  unfold execResetProgrammeComplete
  split
  · exact answers_self s
  next hd =>
    split
    · exact Moves.answers ((Moves.restart (State.deferredOf_eq_some hd).1).trans (Moves.answerDeferred ..))
    · exact answers_self s

theorem Moves.closeProgramme {s : State} {p : ProgSlot} {r : Programme} (hp : s.prog p = some r) :
    Moves s (((s.freeTracks r.tracks).dropClips p).setProg p none) := by
  have hclips : (s.freeTracks r.tracks).clips = s.clips := by rw [State.freeTracks_eq]
  refine (Move.closeProgramme p r hp).moves.trans (Move.moves ?_)
  exact Move.freeClips (s := (s.freeTracks r.tracks).setProg p none) _ List.filter_sublist

theorem answers_closeProgrammeComplete (p : ProgSlot) (s : State) : Answers s (execCloseProgrammeComplete p s) := by
  unfold execCloseProgrammeComplete
  split
  · exact answers_self s
  next hd =>
    split
    · exact Moves.answers ((Moves.closeProgramme (State.deferredOf_eq_some hd).1).trans (Moves.answerDeferred ..))
    · exact answers_self s

theorem answers_closeTrackComplete (p : ProgSlot) (s : State) : Answers s (execCloseTrackComplete p s) := by
  unfold execCloseTrackComplete
  split
  · exact answers_self s
  next hd =>
    obtain ⟨hp, hdef⟩ := State.deferredOf_eq_some hd
    split
    next hk =>
      split
      · exact answers_self s
      · exact Moves.answers ((Moves.freeTrack hp hdef hk).trans (Moves.answerDeferred ..))
    · exact answers_self s
    · exact answers_self s
    · exact answers_self s

theorem answers_noticeEmission (s : State) : Answers s (execNoticeEmission s) := by
  unfold execNoticeEmission
  split
  · exact answers_self s
  next h =>
    have hroom : s.egress.ctl.length < 16 := by
      rw [Bool.or_eq_true, decide_eq_true_eq, not_or] at h
      have hfree := h.2
      simp only [State.ctlFree, Config.ctlQueue, Config.noticeRoom] at hfree
      omega
    split
    · exact answers_self s
    next p _ =>
      split
      · exact answers_self s
      · have hempty : Moves s (s.modProg p fun r => { r with notice := .empty }) := Moves.modProg fun r _ => r.serves_notice _
        exact Moves.answers (hempty.trans (Moves.appendCtl (s := s.modProg p fun r => { r with notice := .empty }) hroom _))

theorem answers_unitResetReply (s : State) : Answers s (execUnitResetReply s) := by
  unfold execUnitResetReply
  split
  · exact answers_self s
  next u _ =>
    split
    · exact Moves.answers ((Moves.of_inner (t := { s with unitReset := some { u with placed := true } }) rfl).trans
        (Moves.setCtl (.inl (length_fillPlace ..).le) (ready_fillPlace rfl _)))
    · exact answers_self s

/-- Every command, in every state, answers a next state that the state becomes by moves (log 27). -/
theorem exec_answers (c : Instr) (s : State) : Answers s (exec c s) := by
  have hrequest : ∀ names work, (∀ s q, Moves s (work s q).1) → Answers s (.next (s.takeRequest names work)) :=
    fun _ _ h => Moves.answers (Moves.takeRequest fun q rest => h (s.reserve q rest) q)
  cases c with
  | powerOn straps => exact answers_resetAtOnce straps s
  | resetPin straps => exact answers_resetAtOnce straps s
  | headerAccepted bytes => exact answers_headerAccepted bytes s
  | headerFailure bytes => exact answers_headerFailure bytes s
  | overrun bytes => exact answers_overrun bytes s
  | takenWhole bytes => exact answers_takenWhole bytes s
  | routing => exact answers_routing s
  | egressCredit => exact answers_egressCredit s
  | egressCreditRestart => exact answers_egressCreditRestart s
  | grant => exact answers_grant s
  | parcelLeft straps => exact answers_parcelLeft straps s
  | loaderTake => exact answers_loaderTake s
  | place => exact answers_place s
  | withdraw => exact answers_withdraw s
  | narrationPage => exact answers_narrationPage s
  | markTaken => exact answers_markTaken s
  | subsegPlaced => exact answers_subsegPlaced s
  | audioTake => exact answers_audioTake s
  | adAudioPlaced => exact answers_adAudioPlaced s
  | eventStep => exact answers_eventStep s
  | identify => exact hrequest _ _ Moves.workIdentify
  | openProgramme => exact hrequest _ _ Moves.workOpenProgramme
  | setProgramme => exact hrequest _ _ Moves.workSetProgramme
  | closeProgramme => exact hrequest _ _ Moves.workCloseProgramme
  | resetProgramme => exact hrequest _ _ Moves.workResetProgramme
  | openTrack => exact hrequest _ _ Moves.workOpenTrack
  | closeTrack => exact hrequest _ _ Moves.workCloseTrack
  | loadStyle => exact hrequest _ _ Moves.workLoadStyle
  | concealSpan => exact hrequest _ _ Moves.workConcealSpan
  | concealUntilResume => exact hrequest _ _ Moves.workConcealUntilResume
  | fence => exact hrequest _ _ Moves.workFence
  | fenceMarkerPlaced => exact answers_fenceMarkerPlaced s
  | readProgramme => exact hrequest _ _ Moves.workReadProgramme
  | readTrack => exact hrequest _ _ Moves.workReadTrack
  | readCounters => exact hrequest _ _ Moves.workReadCounters
  | setEgress => exact hrequest _ _ Moves.workSetEgress
  | unitReset => exact Moves.answers (Moves.takeRequest fun q rest => Moves.workUnitReset s q rest)
  | unknownRequest => exact hrequest _ _ fun _ _ => .refl
  | requestDiscard => exact answers_requestDiscard s
  | resetProgrammeComplete p => exact answers_resetProgrammeComplete p s
  | closeProgrammeComplete p => exact answers_closeProgrammeComplete p s
  | closeTrackComplete p => exact answers_closeTrackComplete p s
  | noticeEmission => exact answers_noticeEmission s
  | unitResetReply => exact answers_unitResetReply s
  | cueRecordOtherOp => exact answers_cueRecordOtherOp s

/-- What every move keeps, every command keeps. -/
theorem keeps_of_exec {Inv : State → Prop} (hkeeps : ∀ s t, Inv s → Move s t → Inv t) {s t : State} {c : Instr} (hs : Inv s)
    (h : exec c s = .next t) : Inv t := by
  obtain ⟨t', ht', hmoves⟩ := exec_answers c s
  cases h.symm.trans ht'
  clear h ht'
  induction hmoves with
  | refl => exact hs
  | tail _ hlast ih => exact hkeeps _ _ ih hlast

/-- What every move keeps and taking the front command keeps, every step keeps. -/
theorem keeps_of_step {Inv : State → Prop} (hpending : ∀ s l, Inv s → Inv { s with pending := l })
    (hkeeps : ∀ s t, Inv s → Move s t → Inv t) {s t : State} (hs : Inv s) (h : step s = .next t) : Inv t := by
  unfold step at h
  split at h
  · cases h; exact hs
  · exact keeps_of_exec hkeeps (hpending s _ hs) h

/-- A fold over the slots leaves the queue of commands. -/
theorem Move.pending {s t : State} (h : Move s t) : t.pending = s.pending := by
  cases h
  case closeProgramme p r hp => show (s.freeTracks r.tracks).pending = _; rw [State.freeTracks_eq]
  case storePage p g h => unfold State.storePage; split <;> rfl
  all_goals rfl

/-- Settles O2: a command moves the part, and no move touches the commands that wait. -/
theorem everyCommandAnswersNextAndKeepsTheQueue : Obligations.EveryCommandAnswersNextAndKeepsTheQueue := by
  unfold Obligations.EveryCommandAnswersNextAndKeepsTheQueue
  intro c s
  obtain ⟨t, ht, -⟩ := exec_answers c s
  exact ⟨t, ht, keeps_of_exec (Inv := fun t => t.pending = s.pending) (fun _ _ h hmove => hmove.pending.trans h) rfl ht⟩

end Sys2Proof.Machine
end

section
/-! PROOF. Invariants that every step keeps: the arbiter, programmes, streams and cue lists. -/

namespace Sys2Proof.Machine

/-! ### The arbiter -/

/-- The arbiter is sound, said of the arbiter alone. -/
def Egress.Sound (e : Egress) : Prop :=
  e.credit ≤ 255 ∧
  (e.passOver.ctl ≤ 64 ∧ e.passOver.mix ≤ 64 ∧ e.passOver.seg ≤ 64 ∧ e.passOver.thru ≤ 64) ∧
  (e.settings.policy = .rotate → e.passOver = ⟨0, 0, 0, 0⟩) ∧
  e.settings.legal ∧ (∀ x, e.pendingSettings = some x → x.legal) ∧
  ∀ g, e.grant = some g → e.ready g.requester = true ∧ g.sent < g.allowance ∧ g.allowance ≤ 8

theorem arbiterSound_iff (s : State) : ArbiterSound s ↔ s.egress.Sound := Iff.rfl

theorem Egress.reset_sound : Egress.reset.Sound := by
  refine ⟨by decide, by decide, fun _ => rfl, ⟨trivial, trivial, trivial, trivial⟩, nofun, nofun⟩

theorem EgressSettings.legal.allowance {x : EgressSettings} (h : x.legal) (r : Requester) :
    0 < (x.modes.get r).allowance ∧ (x.modes.get r).allowance ≤ 8 := by
  obtain ⟨hctl, hmix, hseg, hthru⟩ := h
  have hmode : ∀ m : GrantMode, m.legal → 0 < m.allowance ∧ m.allowance ≤ 8 := by
    rintro (_ | n) hm
    · exact ⟨Nat.one_pos, by decide⟩
    · exact hm
  cases r
  · exact hmode _ hctl
  · exact hmode _ hmix
  · exact hmode _ hseg
  · exact hmode _ hthru

/-- A pass-over count after a grant stays at or below its limit (R143). -/
theorem Egress.passed_le (e : Egress) (chosen : Requester) (counts : PerRequester Nat) {r : Requester} (h : counts.get r ≤ 64) :
    e.passed chosen counts r ≤ 64 := by
  unfold Egress.passed
  split
  · exact Nat.zero_le _
  split
  · exact min_le_left _ _
  · exact h

theorem Egress.Sound.nextPassOver {e : Egress} (h : e.Sound) :
    (e.nextPassOver.ctl ≤ 64 ∧ e.nextPassOver.mix ≤ 64 ∧ e.nextPassOver.seg ≤ 64 ∧ e.nextPassOver.thru ≤ 64) ∧
      (e.nextSettings.policy = .rotate → e.nextPassOver = ⟨0, 0, 0, 0⟩) := by
  obtain ⟨-, hcounts, hrotate, -⟩ := h
  unfold Egress.nextPassOver
  split
  next hpolicy => exact ⟨hcounts, fun hr => hrotate (hpolicy ▸ hr)⟩
  next => exact ⟨by decide, fun _ => rfl⟩

theorem Egress.Sound.grantTo {e : Egress} (h : e.Sound) {r : Requester} (hready : e.ready r = true) : (e.grantTo r).Sound := by
  obtain ⟨⟨hc, hm, hs, ht⟩, hzero⟩ := h.nextPassOver
  obtain ⟨hcredit, -, -, hsettings, hpending, -⟩ := h
  have hnext : e.nextSettings.legal := by
    unfold Egress.nextSettings
    cases hp : e.pendingSettings with
    | none => exact hsettings
    | some x => exact hpending x hp
  refine ⟨(Nat.sub_le _ _).trans hcredit, ?_, fun hr => ?_, hnext, nofun, ?_⟩
  · show (e.passOverAfter _ r _).ctl ≤ 64 ∧ (e.passOverAfter _ r _).mix ≤ 64 ∧ (e.passOverAfter _ r _).seg ≤ 64 ∧
      (e.passOverAfter _ r _).thru ≤ 64
    unfold Egress.passOverAfter
    split
    · exact ⟨e.passed_le r _ hc, e.passed_le r _ hm, e.passed_le r _ hs, e.passed_le r _ ht⟩
    · exact ⟨hc, hm, hs, ht⟩
  · change e.nextSettings.policy = .rotate at hr
    show e.passOverAfter e.nextSettings.policy r e.nextPassOver = _
    rw [hr]
    exact hzero hr
  · rintro g ⟨⟩
    exact ⟨hready, hnext.allowance r⟩

theorem Egress.Sound.afterLeaving {e : Egress} (h : e.Sound) {g : Grant} (hg : e.grant = some g) : (e.afterLeaving g).Sound := by
  obtain ⟨hcredit, hcounts, hrotate, hsettings, hpending, hgrant⟩ := h
  have hpop : (e.pop g.requester).passOver = e.passOver ∧ (e.pop g.requester).settings = e.settings ∧
      (e.pop g.requester).pendingSettings = e.pendingSettings := by
    cases g.requester <;> exact ⟨rfl, rfl, rfl⟩
  obtain ⟨hpassOver, hset, hpend⟩ := hpop
  rcases e.afterLeaving_cases g with ⟨hallowance, hready, -, heq⟩ | heq
  · rw [heq]
    refine ⟨(Nat.sub_le _ _).trans hcredit, hpassOver.symm ▸ hcounts, ?_, hset.symm ▸ hsettings, hpend.symm ▸ hpending, ?_⟩
    · show (e.pop g.requester).settings.policy = _ → (e.pop g.requester).passOver = _
      rw [hset, hpassOver]; exact hrotate
    · rintro _ ⟨⟩
      exact ⟨hready, hallowance, (hgrant g hg).2.2⟩
  · rw [heq]
    refine ⟨(e.pop_credit _).trans_le hcredit, hpassOver.symm ▸ hcounts, ?_, hset.symm ▸ hsettings, hpend.symm ▸ hpending, nofun⟩
    show (e.pop g.requester).settings.policy = _ → (e.pop g.requester).passOver = _
    rw [hset, hpassOver]; exact hrotate

theorem Egress.Sound.move {e e' : Egress} (h : e.Sound) (hmove : e.Move e') : e'.Sound := by
  cases hmove with
  | credit n hn => exact ⟨hn, h.2⟩
  | grant =>
    rcases e.makeGrant_cases with heq | ⟨-, -, r, hready, heq⟩
    · rw [heq]; exact h
    · rw [heq]; exact h.grantTo hready
  | left g hg => exact h.afterLeaving hg
  | queues thru seg mix ctl _ _ _ _ hready =>
    obtain ⟨hcredit, hcounts, hrotate, hsettings, hpending, hgrant⟩ := h
    refine ⟨hcredit, hcounts, hrotate, hsettings, hpending, fun g hg => ?_⟩
    obtain ⟨hr, hrest⟩ := hgrant g hg
    exact ⟨hready _ hr, hrest⟩
  | settings x hx =>
    obtain ⟨hcredit, hcounts, hrotate, hsettings, -, hgrant⟩ := h
    exact ⟨hcredit, hcounts, hrotate, hsettings, by rintro _ ⟨⟩; exact hx, hgrant⟩

theorem Move.keeps_arbiterSound (s t : State) (hs : ArbiterSound s) (h : Move s t) : ArbiterSound t := by
  rw [arbiterSound_iff] at hs ⊢
  cases h
  case egress e he => exact hs.move he
  case reset => exact Egress.reset_sound
  case closeProgramme p r hp => show (s.freeTracks r.tracks).egress.Sound; rw [State.freeTracks_eq]; exact hs
  case storePage p g _ => unfold State.storePage; split <;> exact hs
  all_goals exact hs

/-- Settles O56: a grant is made to a ready requester under legal settings, goes on only to a ready one, and no queue's head is ever
taken from a requester that is ready. -/
theorem stepKeepsTheArbiterSound : Obligations.StepKeepsTheArbiterSound := fun _ _ hs h =>
  keeps_of_step (fun _ _ hs => hs) Move.keeps_arbiterSound hs h

/-! ### Programmes -/

/-- Programme records that change one at a time. -/
theorem ProgrammesSound.setProg {s : State} (hs : ProgrammesSound s) {p : ProgSlot} {o : Option Programme}
    (h : ∀ r, o = some r → r.Sound) : ProgrammesSound (s.setProg p o) := by
  intro q r hq
  rw [State.setProg_prog] at hq
  split at hq
  · exact h r hq
  · exact hs q r hq

/-- A programme that takes requests is in no drain, so the request it defers is the only one that can have begun one. -/
theorem Programme.Sound.defer {r : Programme} (h : r.Sound) (hr : r.takes) {d : Deferred} {state : ProgState}
    (hdrain : state = .draining ∧ d.kind = .resetProgramme ∨ state = .closing ∧ d.kind = .closeProgramme ∨
      state = r.state ∧ d.kind ≠ .resetProgramme ∧ d.kind ≠ .closeProgramme) :
    ({ r with state := state, deferred := some d } : Programme).Sound := by
  obtain ⟨-, h1, h2, h3, h4, h5, h6, h7, hactive, hhalted⟩ := h
  have hheld : ∀ kind, (∃ d', some d = some d' ∧ d'.kind = kind) ↔ d.kind = kind := fun kind =>
    ⟨fun ⟨d', hd, hk⟩ => by cases hd; exact hk, fun hk => ⟨d, rfl, hk⟩⟩
  refine ⟨⟨(?_ : state = .draining ↔ _), (?_ : state = .closing ↔ _)⟩, h1, h2, h3, h4, h5, h6, h7, (?_ : state = .active → _),
    (?_ : state = .halted → _)⟩
  · rw [hheld]
    rcases hdrain with ⟨rfl, hk⟩ | ⟨rfl, hk⟩ | ⟨rfl, hreset, -⟩
    · exact iff_of_true rfl hk
    · exact iff_of_false nofun (hk ▸ nofun)
    · exact iff_of_false (by rcases hr.1 with hr | hr <;> rw [hr] <;> exact nofun) hreset
  · rw [hheld]
    rcases hdrain with ⟨rfl, hk⟩ | ⟨rfl, hk⟩ | ⟨rfl, -, hclose⟩
    · exact iff_of_false nofun (hk ▸ nofun)
    · exact iff_of_true rfl hk
    · exact iff_of_false (by rcases hr.1 with hr | hr <;> rw [hr] <;> exact nofun) hclose
  · rcases hdrain with ⟨rfl, -⟩ | ⟨rfl, -⟩ | ⟨rfl, -⟩
    · exact nofun
    · exact nofun
    · exact hactive
  · rcases hdrain with ⟨rfl, -⟩ | ⟨rfl, -⟩ | ⟨rfl, -⟩
    · exact nofun
    · exact nofun
    · exact hhalted

/-- A programme that is closing a track is in no drain, before and after. -/
theorem Programme.Sound.freeTrack {r : Programme} (h : r.Sound) {d : Deferred} {u : TrackSlot} (hd : r.deferred = some d)
    (hk : d.kind = .closeTrack u) (ts : List TrackSlot) : ({ r with tracks := ts, deferred := none } : Programme).Sound := by
  obtain ⟨⟨hdrain, hclose⟩, hrange⟩ := h
  refine ⟨⟨iff_of_false (fun hs => ?_) nofun, iff_of_false (fun hs => ?_) nofun⟩, hrange⟩
  · obtain ⟨d', hd', hk'⟩ := hdrain.mp hs
    cases hd.symm.trans hd'
    cases hk.symm.trans hk'
  · obtain ⟨d', hd', hk'⟩ := hclose.mp hs
    cases hd.symm.trans hd'
    cases hk.symm.trans hk'

theorem afterReset_prog (straps : BitVec 4) (lanes : Lanes) (pending : List Instr) (p : ProgSlot) :
    (State.afterReset straps lanes pending).prog p = none := by
  simp [State.prog_def, State.afterReset]

theorem afterReset_track (straps : BitVec 4) (lanes : Lanes) (pending : List Instr) (u : TrackSlot) :
    (State.afterReset straps lanes pending).track u = none := by
  simp [State.track_def, State.afterReset]

theorem State.freeTracks_prog (s : State) (ts : List TrackSlot) (p : ProgSlot) : (s.freeTracks ts).prog p = s.prog p := by
  rw [State.freeTracks_eq]; rfl

theorem Move.keeps_programmesSound (s t : State) (hs : ProgrammesSound s) (h : Move s t) : ProgrammesSound t := by
  cases h
  case prog p r r' hp h _ => exact hs.setProg (by rintro _ ⟨⟩; exact h.sound (hs p r hp))
  case openProgramme p r _ hsound _ _ _ => exact hs.setProg (by rintro _ ⟨⟩; exact hsound)
  case openTrack p r u x hp _ _ _ _ =>
    exact ProgrammesSound.setProg (s := s.setTrack u (some x)) hs (by rintro _ ⟨⟩; exact hs p r hp)
  case defer p r d state hp hr hdrain _ => exact hs.setProg (by rintro _ ⟨⟩; exact Programme.Sound.defer (hs p r hp) hr hdrain)
  case freeTrack p r d u hp hd hk =>
    exact ProgrammesSound.setProg (s := s.setTrack u none) hs
      (by rintro _ ⟨⟩; exact Programme.Sound.freeTrack (hs p r hp) hd hk _)
  case closeProgramme p r hp =>
    have hfreed : ProgrammesSound (s.freeTracks r.tracks) := fun q r' hq => hs q r' (by rwa [State.freeTracks_prog] at hq)
    exact hfreed.setProg (by rintro _ ⟨⟩)
  case reset => intro p r hp; rw [afterReset_prog] at hp; cases hp
  case storePage p g _ => unfold State.storePage; split <;> exact hs
  all_goals exact hs

/-- Settles O57: a record changes within its service, is opened fresh, defers a request it takes, or loses a track, and each of these
leaves it sound. -/
theorem stepKeepsProgrammesSound : Obligations.StepKeepsProgrammesSound := fun _ _ hs h =>
  keeps_of_step (fun _ _ hs => hs) Move.keeps_programmesSound hs h

/-! ### Streams -/

/-- Records that bear the streams that stood in their slots. -/
theorem StreamsDistinct.of_kept {s t : State} (hs : StreamsDistinct s)
    (hprog : ∀ p r, t.prog p = some r → ∃ r', s.prog p = some r' ∧ r.stream = r'.stream)
    (htrack : ∀ u x, t.track u = some x → ∃ x', s.track u = some x' ∧ x.stream = x'.stream) : StreamsDistinct t := by
  obtain ⟨hprogs, htracks, hboth⟩ := hs
  refine ⟨fun p p' r r' hp hp' heq => ?_, fun u u' x x' hu hu' heq => ?_, fun p u r x hp hu => ?_⟩
  · obtain ⟨r₁, hr₁, h₁⟩ := hprog p r hp
    obtain ⟨r₂, hr₂, h₂⟩ := hprog p' r' hp'
    exact hprogs p p' r₁ r₂ hr₁ hr₂ (by rw [← h₁, heq, h₂])
  · obtain ⟨x₁, hx₁, h₁⟩ := htrack u x hu
    obtain ⟨x₂, hx₂, h₂⟩ := htrack u' x' hu'
    exact htracks u u' x₁ x₂ hx₁ hx₂ (by rw [← h₁, heq, h₂])
  · obtain ⟨r₁, hr₁, h₁⟩ := hprog p r hp
    obtain ⟨x₁, hx₁, h₂⟩ := htrack u x hu
    rw [h₁, h₂]
    exact hboth p u r₁ x₁ hr₁ hx₁

theorem StreamsDistinct.setProg {s : State} (hs : StreamsDistinct s) {p : ProgSlot} {r r' : Programme} (hp : s.prog p = some r)
    (h : r'.stream = r.stream) : StreamsDistinct (s.setProg p (some r')) := by
  refine hs.of_kept (fun q r₁ hq => ?_) fun u x hu => ⟨x, hu, rfl⟩
  rw [State.setProg_prog] at hq
  split at hq
  next heq => cases hq; exact ⟨r, heq ▸ hp, h⟩
  next => exact ⟨r₁, hq, rfl⟩

theorem StreamsDistinct.setTrack {s : State} (hs : StreamsDistinct s) {u : TrackSlot} {x x' : Track} (hu : s.track u = some x)
    (h : x'.stream = x.stream) : StreamsDistinct (s.setTrack u (some x')) := by
  refine hs.of_kept (fun p r hp => ⟨r, hp, rfl⟩) fun v x₁ hv => ?_
  rw [State.setTrack_track] at hv
  split at hv
  next heq => cases hv; exact ⟨x, heq ▸ hu, h⟩
  next => exact ⟨x₁, hv, rfl⟩

theorem StreamsDistinct.freeTrack {s : State} (hs : StreamsDistinct s) (u : TrackSlot) : StreamsDistinct (s.setTrack u none) := by
  refine hs.of_kept (fun p r hp => ⟨r, hp, rfl⟩) fun v x hv => ?_
  rw [State.setTrack_track] at hv
  split at hv
  · cases hv
  · exact ⟨x, hv, rfl⟩

/-- A programme opened with a stream that is not in use (R12, R14). -/
theorem StreamsDistinct.openProgramme {s : State} (hs : StreamsDistinct s) {p : ProgSlot} {r : Programme}
    (h : s.streamInUse r.stream = false) : StreamsDistinct (s.setProg p (some r)) := by
  obtain ⟨hprogs, htracks, hboth⟩ := hs
  obtain ⟨hnoProg, hnoTrack⟩ := (s.streamInUse_eq_false _).mp h
  simp only [StreamsDistinct, State.setProg_prog, State.setProg_track]
  refine ⟨fun q q' r₁ r₂ hq hq' heq => ?_, htracks, fun q u r₁ x hq hu => ?_⟩
  · split at hq <;> split at hq'
    · exact ‹q = p›.trans ‹q' = p›.symm
    · cases hq; exact absurd heq.symm (hnoProg q' r₂ hq')
    · cases hq'; exact absurd heq (hnoProg q r₁ hq)
    · exact hprogs q q' r₁ r₂ hq hq' heq
  · split at hq
    · cases hq; exact (hnoTrack u x hu).symm
    · exact hboth q u r₁ x hq hu

/-- A track opened with a stream that is not in use (R14, R25). -/
theorem StreamsDistinct.openTrack {s : State} (hs : StreamsDistinct s) {u : TrackSlot} {x : Track}
    (h : s.streamInUse x.stream = false) : StreamsDistinct (s.setTrack u (some x)) := by
  obtain ⟨hprogs, htracks, hboth⟩ := hs
  obtain ⟨hnoProg, hnoTrack⟩ := (s.streamInUse_eq_false _).mp h
  simp only [StreamsDistinct, State.setTrack_track, State.setTrack_prog]
  refine ⟨hprogs, fun v v' x₁ x₂ hv hv' heq => ?_, fun q v r x₁ hq hv => ?_⟩
  · split at hv <;> split at hv'
    · exact ‹v = u›.trans ‹v' = u›.symm
    · cases hv; exact absurd heq.symm (hnoTrack v' x₂ hv')
    · cases hv'; exact absurd heq (hnoTrack v x₁ hv)
    · exact htracks v v' x₁ x₂ hv hv' heq
  · split at hv
    · cases hv; exact hnoProg q r hq
    · exact hboth q v r x₁ hq hv

theorem Move.keeps_streamsDistinct (s t : State) (hs : StreamsDistinct s) (h : Move s t) : StreamsDistinct t := by
  cases h
  case prog p r r' hp h _ => exact hs.setProg hp h.stream
  case track u x x' hu h => exact hs.setTrack hu h.stream
  case subList u x b l hu _ _ _ _ _ => exact hs.setTrack hu rfl
  case adList u x a l hu _ _ _ => exact hs.setTrack hu rfl
  case openProgramme p r _ _ _ _ hstream => exact hs.openProgramme hstream
  case openTrack p r u x hp _ _ _ hstream =>
    exact StreamsDistinct.setProg (s := s.setTrack u (some x)) (hs.openTrack hstream) hp rfl
  case defer p r d state hp _ _ _ => exact hs.setProg hp rfl
  case freeTrack p r d u hp _ _ => exact StreamsDistinct.setProg (s := s.setTrack u none) (hs.freeTrack u) hp rfl
  case closeProgramme p r hp =>
    refine hs.of_kept (fun q r' hq => ?_) fun u x hu => ?_
    · rw [State.setProg_prog, State.freeTracks_prog] at hq
      split at hq
      · cases hq
      · exact ⟨r', hq, rfl⟩
    · rw [State.setProg_track, freeTracks_track] at hu
      split at hu
      · cases hu
      · exact ⟨x, hu, rfl⟩
  case reset =>
    exact hs.of_kept (fun p r hp => by rw [afterReset_prog] at hp; cases hp) fun u x hu => by rw [afterReset_track] at hu; cases hu
  case storePage p g _ => unfold State.storePage; split <;> exact hs
  all_goals exact hs

/-- Settles O58: a stream enters the tables only when a programme or a track is opened with one that is not in use. -/
theorem stepKeepsStreamsDistinct : Obligations.StepKeepsStreamsDistinct := fun _ _ hs h =>
  keeps_of_step (fun _ _ hs => hs) Move.keeps_streamsDistinct hs h

/-! ### Cue lists -/

/-- The cue list of a track body is in order. -/
def TrackBody.Ordered : TrackBody → Prop
  | .sub b => b.ordered
  | .ad a => a.ordered

theorem listsOrdered_iff (s : State) : ListsOrdered s ↔ ∀ u x, s.track u = some x → x.body.Ordered := by
  unfold ListsOrdered
  simp only [State.sub?_eq_some, State.ad?_eq_some]
  refine ⟨fun ⟨hsub, had⟩ u x hu => ?_, fun h => ⟨fun u b ⟨x, hu, hb⟩ => ?_, fun u a ⟨x, hu, ha⟩ => ?_⟩⟩
  · cases hb : x.body with
    | sub b => exact hsub u b ⟨x, hu, hb⟩
    | ad a => exact had u a ⟨x, hu, hb⟩
  · have := h u x hu; rw [hb] at this; exact this
  · have := h u x hu; rw [ha] at this; exact this

theorem Track.sub?_eq_some {x : Track} {b : SubTrack} : x.sub? = some b ↔ x.body = .sub b := by
  unfold Track.sub?
  cases x.body <;> simp

theorem Track.ad?_eq_some {x : Track} {a : AdTrack} : x.ad? = some a ↔ x.body = .ad a := by
  unfold Track.ad?
  cases x.body <;> simp

/-- Within its service a track keeps its kind and its list. -/
theorem Track.Evolves.cases {x x' : Track} (h : x.Evolves x') :
    (∃ b b', x.body = .sub b ∧ x'.body = .sub b' ∧ b'.cues = b.cues) ∨
      ∃ a a', x.body = .ad a ∧ x'.body = .ad a' ∧ a'.cues = a.cues := by
  obtain ⟨-, -, hsub, had⟩ := h
  cases hx : x.body with
  | sub b =>
    rw [Track.sub?_eq_some.mpr hx, Option.map_some, Option.map_eq_some_iff] at hsub
    obtain ⟨b', hb', hcues⟩ := hsub
    exact .inl ⟨b, b', rfl, Track.sub?_eq_some.mp hb', hcues⟩
  | ad a =>
    rw [Track.ad?_eq_some.mpr hx, Option.map_some, Option.map_eq_some_iff] at had
    obtain ⟨a', ha', hcues⟩ := had
    exact .inr ⟨a, a', rfl, Track.ad?_eq_some.mp ha', hcues⟩

theorem Track.Evolves.ordered {x x' : Track} (h : x.Evolves x') (hx : x.body.Ordered) : x'.body.Ordered := by
  rcases h.cases with ⟨b, b', hb, hb', hcues⟩ | ⟨a, a', ha, ha', hcues⟩
  · rw [hb] at hx
    rw [hb']
    simpa only [TrackBody.Ordered, SubTrack.ordered, hcues] using hx
  · rw [ha] at hx
    rw [ha']
    simpa only [TrackBody.Ordered, AdTrack.ordered, hcues] using hx

theorem TrackBody.ordered_of_cueCount {body : TrackBody} (h : body.cueCount = 0) : body.Ordered := by
  cases body with
  | sub b => simp [TrackBody.Ordered, SubTrack.ordered, List.length_eq_zero_iff.mp h]
  | ad a => simp [TrackBody.Ordered, AdTrack.ordered, List.length_eq_zero_iff.mp h]

theorem Move.keeps_listsOrdered (s t : State) (hs : ListsOrdered s) (h : Move s t) : ListsOrdered t := by
  rw [listsOrdered_iff] at hs ⊢
  have hset : ∀ (u : TrackSlot) (o : Option Track), (∀ x, o = some x → x.body.Ordered) →
      ∀ v x, (s.setTrack u o).track v = some x → x.body.Ordered := by
    intro u o ho v x hv
    rw [State.setTrack_track] at hv
    split at hv
    · exact ho x hv
    · exact hs v x hv
  cases h
  case track u x x' hu h => exact hset u _ (by rintro _ ⟨⟩; exact h.ordered (hs u x hu))
  case subList u x b l hu hb hordered _ _ _ =>
    exact hset u _ (by rintro _ ⟨⟩; have := hs u x hu; rw [hb] at this; exact hordered this)
  case adList u x a l hu ha hordered _ =>
    exact hset u _ (by rintro _ ⟨⟩; have := hs u x hu; rw [ha] at this; exact hordered this)
  case openTrack p r u x _ _ _ hcues _ => exact hset u _ (by rintro _ ⟨⟩; exact TrackBody.ordered_of_cueCount hcues)
  case freeTrack p r d u _ _ _ => exact hset u none nofun
  case closeProgramme p r _ =>
    intro u x hu
    rw [State.setProg_track, freeTracks_track] at hu
    split at hu
    · cases hu
    · exact hs u x hu
  case reset => intro u x hu; rw [afterReset_track] at hu; cases hu
  case storePage p g _ => unfold State.storePage; split <;> exact hs
  all_goals exact hs

/-- Settles O59: an insertion takes the place that the order gives it among cues of other ids, and every other change of a list leaves
out cues or shortens them. -/
theorem stepKeepsCueListsOrdered : Obligations.StepKeepsCueListsOrdered := fun _ _ hs h =>
  keeps_of_step (fun _ _ hs => hs) Move.keeps_listsOrdered hs h

end Sys2Proof.Machine
end

section
/-! PROOF. Invariants that every step keeps: the two tables agree, and no cue stands behind the cut line. -/

namespace Sys2Proof.Machine

/-! ### The two tables together -/

/-- A programme record changes whose track list stays, and which defers the closing of none but its own tracks. -/
theorem TablesAgree.setProg {s : State} (hs : TablesAgree s) {p : ProgSlot} {r r' : Programme} (hp : s.prog p = some r)
    (htracks : r'.tracks = r.tracks) (hdeferred : ∀ d u, r'.deferred = some d → d.kind = .closeTrack u → u ∈ r.tracks) :
    TablesAgree (s.setProg p (some r')) := by
  obtain ⟨hlist, hbound, hclosing⟩ := hs
  simp only [TablesAgree, State.setProg_prog, State.setProg_track]
  refine ⟨fun q r₁ hq => ?_, fun u x hu => ?_, fun q r₁ d u hq hd hk => ?_⟩
  · split at hq
    next heq => cases hq; rw [htracks, heq]; exact hlist p r hp
    next => exact hlist q r₁ hq
  · split
    · nofun
    · exact hbound u x hu
  · split at hq
    · cases hq; rw [htracks]; exact hdeferred d u hd hk
    · exact hclosing q r₁ d u hq hd hk

/-- A track record changes that stays with its programme. -/
theorem TablesAgree.setTrack {s : State} (hs : TablesAgree s) {u : TrackSlot} {x x' : Track} (hu : s.track u = some x)
    (hx : x'.prog = x.prog) : TablesAgree (s.setTrack u (some x')) := by
  obtain ⟨hlist, hbound, hclosing⟩ := hs
  have hbinds : ∀ v p, (∃ y, (s.setTrack u (some x')).track v = some y ∧ y.prog = p) ↔ ∃ y, s.track v = some y ∧ y.prog = p := by
    intro v p
    rw [State.setTrack_track]
    split
    next heq => subst heq; simp [hu, hx]
    next => rfl
  refine ⟨fun p r hp => ⟨(hlist p r hp).1, fun v => ((hlist p r hp).2 v).trans (hbinds v p).symm⟩, fun v y hv => ?_, hclosing⟩
  obtain ⟨y', hv', hy'⟩ := (hbinds v y.prog).mp ⟨y, hv, rfl⟩
  exact hy' ▸ hbound v y' hv'

theorem TablesAgree.openProgramme {s : State} (hs : TablesAgree s) {p : ProgSlot} {r : Programme} (hp : s.prog p = none)
    (htracks : r.tracks = []) (hdeferred : r.deferred = none) : TablesAgree (s.setProg p (some r)) := by
  obtain ⟨hlist, hbound, hclosing⟩ := hs
  simp only [TablesAgree, State.setProg_prog, State.setProg_track]
  refine ⟨fun q r₁ hq => ?_, fun u x hu => ?_, fun q r₁ d u hq hd hk => ?_⟩
  · split at hq
    next heq =>
      cases hq
      rw [htracks, heq]
      refine ⟨.nil, fun u => iff_of_false List.not_mem_nil ?_⟩
      rintro ⟨x, hu, rfl⟩
      exact hbound u x hu hp
    next => exact hlist q r₁ hq
  · split
    · nofun
    · exact hbound u x hu
  · split at hq
    · cases hq; cases hdeferred.symm.trans hd
    · exact hclosing q r₁ d u hq hd hk

/-- A FREE slot is taken by a track of a programme in use, at the end of whose list it stands (R25). -/
theorem TablesAgree.openTrack {s : State} (hs : TablesAgree s) {p : ProgSlot} {r : Programme} {u : TrackSlot} {x : Track}
    (hp : s.prog p = some r) (hu : s.track u = none) (hx : x.prog = p) :
    TablesAgree ((s.setTrack u (some x)).setProg p (some { r with tracks := r.tracks ++ [u] })) := by
  obtain ⟨hlist, hbound, hclosing⟩ := hs
  have hfresh : ∀ q r₁, s.prog q = some r₁ → u ∉ r₁.tracks := by
    intro q r₁ hq hmem
    obtain ⟨y, hy, -⟩ := ((hlist q r₁ hq).2 u).mp hmem
    cases hu.symm.trans hy
  simp only [TablesAgree, State.setProg_prog, State.setProg_track, State.setTrack_prog, State.setTrack_track]
  refine ⟨fun q r₁ hq => ?_, fun v y hv => ?_, fun q r₁ d v hq hd hk => ?_⟩
  · split at hq
    next heq =>
      cases hq
      obtain ⟨hnodup, hmem⟩ := hlist p r hp
      refine ⟨hnodup.append (List.nodup_singleton u) (by simpa using hfresh p r hp), fun v => ?_⟩
      rw [List.mem_append, List.mem_singleton, hmem v, heq]
      split
      next hv => subst hv; simp [hx]
      next hv => simp [hv]
    next hne =>
      refine ⟨(hlist q r₁ hq).1, fun v => ((hlist q r₁ hq).2 v).trans ?_⟩
      split
      next hv => subst hv; simp [hu, hx, Ne.symm hne]
      next => rfl
  · split
    · nofun
    next hne =>
      split at hv
      · cases hv; exact absurd hx hne
      · exact hbound v y hv
  · split at hq
    · cases hq; exact List.mem_append_left _ (hclosing p r d v hp hd hk)
    · exact hclosing q r₁ d v hq hd hk

/-- A track whose closing its programme defers is freed and leaves the list (R26). -/
theorem TablesAgree.freeTrack {s : State} (hs : TablesAgree s) {p : ProgSlot} {r : Programme} {d : Deferred} {u : TrackSlot}
    (hp : s.prog p = some r) (hd : r.deferred = some d) (hk : d.kind = .closeTrack u) :
    TablesAgree ((s.setTrack u none).setProg p (some { r with tracks := r.tracks.erase u, deferred := none })) := by
  obtain ⟨hlist, hbound, hclosing⟩ := hs
  obtain ⟨x, hu, hx⟩ := ((hlist p r hp).2 u).mp (hclosing p r d u hp hd hk)
  simp only [TablesAgree, State.setProg_prog, State.setProg_track, State.setTrack_prog, State.setTrack_track]
  refine ⟨fun q r₁ hq => ?_, fun v y hv => ?_, fun q r₁ d v hq hd hk => ?_⟩
  · split at hq
    next heq =>
      cases hq
      obtain ⟨hnodup, hmem⟩ := hlist p r hp
      refine ⟨hnodup.erase u, fun v => ?_⟩
      rw [hnodup.mem_erase_iff, hmem v, heq]
      split
      next hv => simp [hv]
      next hv => simp [hv]
    next hne =>
      refine ⟨(hlist q r₁ hq).1, fun v => ((hlist q r₁ hq).2 v).trans ?_⟩
      split
      next hv => subst hv; simp [hu, hx, Ne.symm hne]
      next => rfl
  · split
    · nofun
    · split at hv
      · cases hv
      · exact hbound v y hv
  · split at hq
    · cases hq; cases hd
    · exact hclosing q r₁ d v hq hd hk

/-- A programme is freed with the tracks of its list (R20). -/
theorem TablesAgree.closeProgramme {s : State} (hs : TablesAgree s) {p : ProgSlot} {r : Programme} (hp : s.prog p = some r) :
    TablesAgree ((s.freeTracks r.tracks).setProg p none) := by
  obtain ⟨hlist, hbound, hclosing⟩ := hs
  have hmem := (hlist p r hp).2
  simp only [TablesAgree, State.setProg_prog, State.setProg_track, State.freeTracks_prog, freeTracks_track]
  refine ⟨fun q r₁ hq => ?_, fun v y hv => ?_, fun q r₁ d v hq hd hk => ?_⟩
  · split at hq
    · cases hq
    next hne =>
      refine ⟨(hlist q r₁ hq).1, fun v => ((hlist q r₁ hq).2 v).trans ?_⟩
      split
      next hv =>
        obtain ⟨y, hy, rfl⟩ := (hmem v).mp hv
        simp [hy, Ne.symm hne]
      next => rfl
  · split at hv
    · cases hv
    next hv' =>
      rw [if_neg fun heq => hv' ((hmem v).mpr ⟨y, hv, heq⟩)]
      exact hbound v y hv
  · split at hq
    · cases hq
    · exact hclosing q r₁ d v hq hd hk

theorem Move.keeps_tablesAgree (s t : State) (hs : TablesAgree s) (h : Move s t) : TablesAgree t := by
  cases h
  case prog p r r' hp h _ =>
    refine hs.setProg hp h.tracks fun d u hd hk => ?_
    rcases h.deferred with heq | heq
    · exact hs.2.2 p r d u hp (heq ▸ hd) hk
    · cases heq.symm.trans hd
  case track u x x' hu h => exact hs.setTrack hu h.prog
  case subList u x b l hu _ _ _ _ _ => exact hs.setTrack hu rfl
  case adList u x a l hu _ _ _ => exact hs.setTrack hu rfl
  case openProgramme p r hp _ htracks hdeferred _ => exact hs.openProgramme hp htracks hdeferred
  case openTrack p r u x hp hu hx _ _ => exact hs.openTrack hp hu hx
  case defer p r d state hp _ _ htrack =>
    refine hs.setProg hp rfl fun d' u hd hk => ?_
    cases hd
    exact ((hs.1 p r hp).2 u).mpr (htrack u hk)
  case freeTrack p r d u hp hd hk => exact hs.freeTrack hp hd hk
  case closeProgramme p r hp => exact hs.closeProgramme hp
  case reset => simp [TablesAgree, afterReset_prog, afterReset_track]
  case storePage p g _ => unfold State.storePage; split <;> exact hs
  all_goals exact hs

/-! ### Cues and the cut line -/

/-- A programme record changes whose cut line stays or moves below the end of every cue of its tracks. -/
theorem CuesEndAfterCutLine.setProg {s : State} (hs : CuesEndAfterCutLine s) {p : ProgSlot} {r r' : Programme}
    (hp : s.prog p = some r) (h : r'.cutLine = r.cutLine ∨
      ∀ u x b, s.track u = some x → x.prog = p → x.body = .sub b → ∀ c ∈ b.cues, r'.cutLine < c.stop) :
    CuesEndAfterCutLine (s.setProg p (some r')) := by
  intro q r₁ u x b hq hu hx hb c hc
  rw [State.setProg_track] at hu
  rw [State.setProg_prog] at hq
  split at hq
  next heq =>
    cases hq
    subst heq
    rcases h with hcut | hcut
    · rw [hcut]; exact hs q r u x b hp hu hx hb c hc
    · exact hcut u x b hu hx hb c hc
  next => exact hs q r₁ u x b hq hu hx hb c hc

/-- A track takes a list whose cues all end after the cut line. -/
theorem CuesEndAfterCutLine.setTrack {s : State} (hs : CuesEndAfterCutLine s) {u : TrackSlot} {x' : Track}
    (h : ∀ r b, s.prog x'.prog = some r → x'.body = .sub b → ∀ c ∈ b.cues, r.cutLine < c.stop) :
    CuesEndAfterCutLine (s.setTrack u (some x')) := by
  intro q r v y b hq hv hy hb c hc
  rw [State.setTrack_prog] at hq
  rw [State.setTrack_track] at hv
  split at hv
  · cases hv; subst hy; exact h r b hq hb c hc
  · exact hs q r v y b hq hv hy hb c hc

theorem CuesEndAfterCutLine.of_fewer {s t : State} (hs : CuesEndAfterCutLine s) (hprog : ∀ p r, t.prog p = some r → s.prog p = some r)
    (htrack : ∀ u x, t.track u = some x → s.track u = some x) : CuesEndAfterCutLine t :=
  fun p r u x b hp hu => hs p r u x b (hprog p r hp) (htrack u x hu)

theorem Move.keeps_cuesEndAfterCutLine (s t : State) (hs : CuesEndAfterCutLine s) (htables : TablesAgree s) (h : Move s t) :
    CuesEndAfterCutLine t := by
  obtain ⟨hlist, hbound, -⟩ := htables
  cases h
  case prog p r r' hp _ hcut =>
    refine hs.setProg hp (hcut.imp_right fun hcut u x b hu hx hb => ?_)
    exact hcut u (((hlist p r hp).2 u).mpr ⟨x, hu, hx⟩) b (State.sub?_of_sub hu hb)
  case track u x x' hu h =>
    refine hs.setTrack fun r b hr hb => ?_
    rcases h.cases with ⟨b₁, b₂, hb₁, hb₂, hcues⟩ | ⟨_, _, -, ha, -⟩
    · cases hb₂.symm.trans hb
      rw [hcues]
      exact hs x.prog r u x b₁ (h.prog ▸ hr) hu rfl hb₁
    · cases ha.symm.trans hb
  case subList u x b l hu hb _ hends _ _ =>
    refine hs.setTrack fun r b' hr hb' c hc => ?_
    cases hb'
    rcases hends c hc with ⟨y, hy, hstop⟩ | hend
    · rw [hstop]; exact hs x.prog r u x b hr hu rfl hb y hy
    · exact hend r hr
  case adList => exact hs.setTrack fun r b _ hb => by cases hb
  case openProgramme p r hp _ _ _ _ =>
    intro q r₁ u x b hq hu hx hb
    rw [State.setProg_prog] at hq
    split at hq
    next heq => subst heq; subst hx; exact absurd hp (hbound u x hu)
    next => exact hs q r₁ u x b hq hu hx hb
  case openTrack p r u x hp hu hx hcues _ =>
    have hopened : CuesEndAfterCutLine (s.setTrack u (some x)) := by
      refine hs.setTrack fun _ b _ hb => ?_
      rw [hb] at hcues
      rw [List.length_eq_zero_iff.mp hcues]
      nofun
    exact hopened.setProg hp (.inl rfl)
  case defer p r d state hp _ _ _ => exact hs.setProg hp (.inl rfl)
  case freeTrack p r d u hp _ _ =>
    have hfreed : CuesEndAfterCutLine (s.setTrack u none) := by
      refine hs.of_fewer (fun _ _ => id) fun v x hv => ?_
      rw [State.setTrack_track] at hv
      split at hv
      · cases hv
      · exact hv
    exact hfreed.setProg hp (.inl rfl)
  case closeProgramme p r hp =>
    refine hs.of_fewer (fun q r₁ hq => ?_) fun v x hv => ?_
    · rw [State.setProg_prog, State.freeTracks_prog] at hq
      split at hq
      · cases hq
      · exact hq
    · rw [State.setProg_track, freeTracks_track] at hv
      split at hv
      · cases hv
      · exact hv
  case reset => intro p r u x b hp; rw [afterReset_prog] at hp; cases hp
  case storePage p g _ => unfold State.storePage; split <;> exact hs
  all_goals exact hs

/-- Settles O60: the lists say which cues a moving cut line has to clear, so the two pictures are kept together. -/
theorem stepKeepsTablesAgreedAndNoCueBehindTheCutLine : Obligations.StepKeepsTablesAgreedAndNoCueBehindTheCutLine :=
  fun _ _ hs h => keeps_of_step (Inv := fun s => TablesAgree s ∧ CuesEndAfterCutLine s) (fun _ _ hs => hs)
    (fun s t ⟨htables, hcues⟩ h => ⟨h.keeps_tablesAgree s t htables, h.keeps_cuesEndAfterCutLine s t hcues htables⟩) hs h

end Sys2Proof.Machine
end

section
/-! PROOF. Invariants that every step keeps: queues, receiver and pools within their capacities. -/

namespace Sys2Proof.Machine

/-! ### The pools of cue records and text blocks -/

/-- What a slot of the track table uses of a pool. -/
def slotUse (count : TrackBody → Nat) (o : Option Track) : Nat := (o.map fun x => count x.body).getD 0

/-- What the track table uses of a pool. -/
def State.poolUse (count : TrackBody → Nat) (s : State) : Nat := (s.tracks.toList.map (slotUse count)).sum

theorem State.cuesInUse_eq (s : State) : s.cuesInUse = s.poolUse TrackBody.cueCount := rfl

theorem State.linesInUse_eq (s : State) : s.linesInUse = s.poolUse TrackBody.lineCount := rfl

/-- One entry of a list of numbers changes. -/
theorem sum_set_add_getElem (l : List Nat) (i n : Nat) (h : i < l.length) : (l.set i n).sum + l[i] = l.sum + n := by
  induction l generalizing i with
  | nil => cases h
  | cons m l ih =>
    cases i with
    | zero => simp only [List.set_cons_zero, List.sum_cons, List.getElem_cons_zero]; omega
    | succ i =>
      have := ih i (by simpa using h)
      simp only [List.set_cons_succ, List.sum_cons, List.getElem_cons_succ]
      omega

/-- A slot of the table changes: the use of a pool changes by the slot's. -/
theorem State.poolUse_setTrack (count : TrackBody → Nat) (s : State) (u : TrackSlot) (o : Option Track) :
    (s.setTrack u o).poolUse count + slotUse count (s.track u) = s.poolUse count + slotUse count o := by
  have hlen : u.val < (s.tracks.toList.map (slotUse count)).length := by simp
  have hset : (s.setTrack u o).poolUse count = ((s.tracks.toList.map (slotUse count)).set u.val (slotUse count o)).sum := by
    rw [State.poolUse, State.setTrack, Vector.toList_set, List.map_set]
  have hget : (s.tracks.toList.map (slotUse count))[u.val] = slotUse count (s.track u) := by
    simp [State.track_def]
  rw [hset, ← hget]
  exact sum_set_add_getElem _ _ _ hlen

/-- A freed slot uses nothing. -/
theorem State.poolUse_setTrack_none_le (count : TrackBody → Nat) (s : State) (u : TrackSlot) :
    (s.setTrack u none).poolUse count ≤ s.poolUse count := by
  have := s.poolUse_setTrack count u none
  simp only [slotUse, Option.map_none, Option.getD_none] at this
  omega

theorem State.poolUse_freeTracks_le (count : TrackBody → Nat) (ts : List TrackSlot) (s : State) :
    (s.freeTracks ts).poolUse count ≤ s.poolUse count := by
  induction ts generalizing s with
  | nil => exact le_rfl
  | cons t ts ih => exact (ih (s.setTrack t none)).trans (s.poolUse_setTrack_none_le count t)

theorem State.poolUse_afterReset (count : TrackBody → Nat) (straps : BitVec 4) (lanes : Lanes) (pending : List Instr) :
    (State.afterReset straps lanes pending).poolUse count = 0 := by
  simp [State.poolUse, State.afterReset, slotUse]

theorem Track.Evolves.cueCount {x x' : Track} (h : x.Evolves x') : x'.body.cueCount = x.body.cueCount := by
  rcases h.cases with ⟨b, b', hb, hb', hcues⟩ | ⟨a, a', ha, ha', hcues⟩
  · rw [hb, hb']; exact congrArg List.length hcues
  · rw [ha, ha']; exact congrArg List.length hcues

theorem Track.Evolves.lineCount {x x' : Track} (h : x.Evolves x') : x'.body.lineCount = x.body.lineCount := by
  rcases h.cases with ⟨b, b', hb, hb', hcues⟩ | ⟨a, a', ha, ha', hcues⟩
  · rw [hb, hb']; exact congrArg Machine.lineCount hcues
  · rw [ha, ha']; rfl

/-! ### The pools of clip records and pages -/

/-- A clip's name: its programme and its id in it. -/
def Clip.key (c : Clip) : ProgSlot × Nat := (c.prog, c.id)

theorem Clip.isOf_iff {c : Clip} {p : ProgSlot} {id : Nat} : c.isOf p id = true ↔ c.key = (p, id) := by
  simp [Clip.isOf, Clip.key]

/-- A page stored over one that is present uses no more pages, and else one more at most (R86). -/
theorem countP_isSome_set_le {α : Type} (pages : List (Option α)) (i : Nat) (x : α) :
    (pages.set i (some x)).countP Option.isSome ≤ pages.countP Option.isSome + if (pages.getD i none).isSome then 0 else 1 := by
  induction pages generalizing i with
  | nil => simp
  | cons y pages ih =>
    cases i with
    | zero => cases y <;> simp
    | succ i =>
      have := ih i
      simp only [List.set_cons_succ, List.countP_cons, List.getD_cons_succ]
      omega

theorem Clip.pagesPresent_store_le (c : Clip) (g : PageLoad) :
    (c.store g).pagesPresent ≤ c.pagesPresent + if c.present g.index then 0 else 1 :=
  countP_isSome_set_le c.pages g.index g.samples

theorem pagesPresent_newClip (p : ProgSlot) (g : PageLoad) : (newClip p g).pagesPresent = 0 := by
  simp [newClip, Clip.pagesPresent, List.countP_replicate]

/-- A page is stored in the one clip of its name. -/
theorem pagesPresent_map_store_le {clips : List Clip} (hkeys : (clips.map Clip.key).Nodup) {p : ProgSlot} {g : PageLoad} {c : Clip}
    (hfind : clips.find? (·.isOf p g.clip) = some c) :
    ((clips.map fun k => if k.isOf p g.clip then k.store g else k).map Clip.pagesPresent).sum ≤
      (clips.map Clip.pagesPresent).sum + if c.present g.index then 0 else 1 := by
  induction clips with
  | nil => cases hfind
  | cons k clips ih =>
    rw [List.map_cons, List.nodup_cons] at hkeys
    obtain ⟨hfresh, hkeys⟩ := hkeys
    cases hk : k.isOf p g.clip with
    | true =>
      rw [List.find?_cons, hk] at hfind
      cases hfind
      have hothers : clips.map (fun k' => if k'.isOf p g.clip then k'.store g else k') = clips := by
        refine (List.map_congr_left fun k' hk' => if_neg fun hof => hfresh ?_).trans (List.map_id _)
        rw [Clip.isOf_iff.mp hk, ← Clip.isOf_iff.mp hof]
        exact List.mem_map_of_mem hk'
      have := c.pagesPresent_store_le g
      simp only [List.map_cons, hk, if_true, hothers, List.sum_cons]
      omega
    | false =>
      rw [List.find?_cons, hk] at hfind
      have := ih hkeys hfind
      simp only [List.map_cons, hk, Bool.false_eq_true, if_false, List.sum_cons]
      omega

/-- A page that is not refused has a record and a page of the pools to go to (R88). -/
theorem State.room_of_pageRefusal {s : State} {p : ProgSlot} {g : PageLoad} (h : s.pageRefusal p g = none) :
    (∀ c, s.clip? p g.clip = some c → c.present g.index = true ∨ s.pagesInUse < 16384) ∧
      (s.clip? p g.clip = none → s.clips.length < 512 ∧ s.pagesInUse < 16384) := by
  unfold State.pageRefusal at h
  split at h
  · cases h
  split at h
  next c hc =>
    split at h
    · cases h
    split at h
    · cases h
    split at h
    · cases h
    next hfree =>
      refine ⟨fun c' hc' => ?_, fun hnone => absurd (hc.symm.trans hnone) nofun⟩
      cases hc.symm.trans hc'
      by_cases hpresent : c.present g.index = true
      · exact .inl hpresent
      · simp [hpresent, State.freePages, Config.narrationPages] at hfree
        exact .inr (by omega)
  next hc =>
    split at h
    · cases h
    next hclips =>
      split at h
      · cases h
      next hpages =>
        refine ⟨fun c hc' => absurd (hc.symm.trans hc') nofun, fun _ => ?_⟩
        simp [State.freeClips, State.freePages, Config.clipRecords, Config.narrationPages] at hclips hpages
        omega

/-- The clip pools hold no more than they have, and no clip stands twice (R85, R86). -/
def ClipsFit (clips : List Clip) : Prop :=
  clips.length ≤ 512 ∧ (clips.map Clip.pagesPresent).sum ≤ 16384 ∧ (clips.map Clip.key).Nodup

theorem ClipsFit.sublist {l l' : List Clip} (h : ClipsFit l) (hl : l'.Sublist l) : ClipsFit l' := by
  obtain ⟨hlen, hpages, hkeys⟩ := h
  exact ⟨hl.length_le.trans hlen, ((hl.map _).sum_le_sum fun _ _ => Nat.zero_le _).trans hpages, hkeys.sublist (hl.map _)⟩

theorem ClipsFit.storePage {s : State} (h : ClipsFit s.clips) {p : ProgSlot} {g : PageLoad} (hg : s.pageRefusal p g = none) :
    ClipsFit (s.storePage p g).clips := by
  obtain ⟨hlen, hpages, hkeys⟩ := h
  obtain ⟨hstored, hnew⟩ := State.room_of_pageRefusal hg
  unfold State.storePage
  split
  next c hc =>
    refine ⟨by simpa using hlen, (pagesPresent_map_store_le hkeys hc).trans ?_, ?_⟩
    · rcases hstored c hc with hpresent | hroom
      · rw [if_pos hpresent]; exact hpages
      · have hroom : (s.clips.map Clip.pagesPresent).sum < 16384 := hroom
        split <;> omega
    · have hsame : (fun k : Clip => (if k.isOf p g.clip then k.store g else k).key) = Clip.key := by
        funext k; split <;> rfl
      simpa only [List.map_map, Function.comp_def, hsame] using hkeys
  next hc =>
    obtain ⟨hroom, hpageRoom⟩ := hnew hc
    have hstore := (newClip p g).pagesPresent_store_le g
    rw [pagesPresent_newClip] at hstore
    refine ⟨by simpa using hroom, ?_, ?_⟩
    · have hpageRoom : (s.clips.map Clip.pagesPresent).sum < 16384 := hpageRoom
      rw [List.map_append, List.sum_append, List.map_singleton, List.sum_singleton]
      split at hstore <;> omega
    · rw [List.map_append, List.nodup_append]
      refine ⟨hkeys, List.nodup_singleton _, fun k hk k' hk' heq => ?_⟩
      obtain ⟨c, hcmem, rfl⟩ := List.mem_map.mp hk
      cases List.mem_singleton.mp hk'
      exact List.find?_eq_none.mp hc c hcmem (Clip.isOf_iff.mpr heq)

/-! ### Room -/

/-- The queues of the arbiter are within their capacities (R139). -/
def Egress.Fits (e : Egress) : Prop :=
  e.thru.length ≤ 32 ∧ e.seg.length ≤ 16 ∧ e.mix.length ≤ 32 ∧ e.ctl.length ≤ 16

/-- The queues of the part's inner paths are within their capacities (R29, R52, R65, R97, R149). -/
def State.QueuesFit (s : State) : Prop :=
  s.loaderQ.length ≤ 32 ∧ s.markQ.length ≤ 8 ∧ s.cuts.length ≤ 2 ∧ s.audioQ.length ≤ 8 ∧ s.requestQ.length ≤ 4

/-- The cue lists are within the pools of cue records and text blocks (R33, R34). -/
def State.CuesFit (s : State) : Prop := s.cuesInUse ≤ 4096 ∧ s.linesInUse ≤ 8192

theorem withinCapacity_iff (s : State) :
    WithinCapacity s ↔ s.rx.Fits ∧ s.QueuesFit ∧ s.egress.Fits ∧ s.CuesFit ∧ ClipsFit s.clips := by
  unfold WithinCapacity Receiver.Fits State.QueuesFit Egress.Fits State.CuesFit ClipsFit
  constructor
  · rintro ⟨h1, h2, h3, h4, h5, h6, h7, h8, h9, h10, h11, h12, h13, h14, h15, h16⟩
    exact ⟨⟨h1, h2⟩, ⟨h3, h4, h5, h6, h7⟩, ⟨h8, h9, h10, h11⟩, ⟨h12, h13⟩, h14, h15, h16⟩
  · rintro ⟨⟨h1, h2⟩, ⟨h3, h4, h5, h6, h7⟩, ⟨h8, h9, h10, h11⟩, ⟨h12, h13⟩, h14, h15, h16⟩
    exact ⟨h1, h2, h3, h4, h5, h6, h7, h8, h9, h10, h11, h12, h13, h14, h15, h16⟩

theorem Stays.le {α : Type} {cap : Nat} {l l' : List α} (h : Stays cap l l') (hl : l.length ≤ cap) : l'.length ≤ cap :=
  h.elim (·.trans hl) id

theorem Egress.Fits.pop {e : Egress} (h : e.Fits) (r : Requester) : (e.pop r).Fits := by
  obtain ⟨ht, hs, hm, hc⟩ := h
  cases r
  · exact ⟨ht, hs, hm, List.length_tail.trans_le (Nat.sub_le_of_le_add (by omega))⟩
  · exact ⟨ht, hs, List.length_tail.trans_le (Nat.sub_le_of_le_add (by omega)), hc⟩
  · exact ⟨ht, List.length_tail.trans_le (Nat.sub_le_of_le_add (by omega)), hm, hc⟩
  · exact ⟨List.length_tail.trans_le (Nat.sub_le_of_le_add (by omega)), hs, hm, hc⟩

theorem Egress.Fits.move {e e' : Egress} (h : e.Fits) (hmove : e.Move e') : e'.Fits := by
  cases hmove with
  | credit n hn => exact h
  | grant =>
    rcases e.makeGrant_cases with heq | ⟨-, -, r, -, heq⟩ <;> (rw [heq]; exact h)
  | left g hg =>
    rcases e.afterLeaving_cases g with ⟨-, -, -, heq⟩ | heq <;> (rw [heq]; exact h.pop g.requester)
  | queues thru seg mix ctl ht hs hm hc _ =>
    obtain ⟨hthru, hseg, hmix, hctl⟩ := h
    exact ⟨ht.le hthru, hs.le hseg, hm.le hmix, hc.le hctl⟩
  | settings x hx => exact h

/-- A track record takes a cue list for which the pools have room. -/
theorem State.CuesFit.setTrack {s : State} (h : s.CuesFit) {u : TrackSlot} {x x' : Track} (hu : s.track u = some x)
    (hcues : x'.body.cueCount ≤ x.body.cueCount + s.freeCues) (hlines : x'.body.lineCount ≤ x.body.lineCount + s.freeLines) :
    (s.setTrack u (some x')).CuesFit := by
  obtain ⟨hcuesFit, hlinesFit⟩ := h
  have hc := s.poolUse_setTrack TrackBody.cueCount u (some x')
  have hl := s.poolUse_setTrack TrackBody.lineCount u (some x')
  rw [hu] at hc hl
  simp only [slotUse, Option.map_some, Option.getD_some, ← State.cuesInUse_eq, ← State.linesInUse_eq] at hc hl
  simp only [State.freeCues, State.freeLines, Config.cueRecords, Config.textBlocks] at hcues hlines
  exact ⟨by omega, by omega⟩

theorem State.CuesFit.of_le {s t : State} (h : s.CuesFit) (hle : ∀ count, t.poolUse count ≤ s.poolUse count) : t.CuesFit :=
  ⟨(hle TrackBody.cueCount).trans h.1, (hle TrackBody.lineCount).trans h.2⟩

theorem Move.keeps_cuesFit (s t : State) (hs : s.CuesFit) (h : Move s t) : t.CuesFit := by
  cases h
  case track u x x' hu h => 
    exact hs.setTrack hu (h.cueCount.trans_le (Nat.le_add_right _ _)) (h.lineCount.trans_le (Nat.le_add_right _ _))
  case subList u x b l hu hb _ _ hcues hlines =>
    exact hs.setTrack hu (by rw [hb]; exact hcues) (by rw [hb]; exact hlines)
  case adList u x a l hu ha _ hcues => exact hs.setTrack hu (by rw [ha]; exact hcues) (Nat.zero_le _)
  case openTrack p r u x _ hu _ hcues _ =>
    have hlines : x.body.lineCount = 0 := by
      cases hb : x.body with
      | sub b => rw [hb] at hcues; simp [TrackBody.lineCount, List.length_eq_zero_iff.mp hcues, lineCount]
      | ad a => rfl
    have hopened : (s.setTrack u (some x)).CuesFit := by
      have hc := s.poolUse_setTrack TrackBody.cueCount u (some x)
      have hl := s.poolUse_setTrack TrackBody.lineCount u (some x)
      simp only [hu, slotUse, Option.map_some, Option.map_none, Option.getD_some, Option.getD_none, hcues, hlines] at hc hl
      exact ⟨hc.le.trans hs.1, hl.le.trans hs.2⟩
    exact hopened
  case freeTrack p r d u _ _ _ => exact hs.of_le fun count => s.poolUse_setTrack_none_le count u
  case closeProgramme p r _ => exact hs.of_le fun count => s.poolUse_freeTracks_le count r.tracks
  case reset straps lanes => exact hs.of_le fun count => (State.poolUse_afterReset count ..).trans_le (Nat.zero_le _)
  case storePage p g _ => unfold State.storePage; split <;> exact hs
  all_goals exact hs

theorem Receiver.reset_fits (straps : BitVec 4) (lanes : Lanes) (pending : List Instr) :
    (State.afterReset straps lanes pending).rx.Fits := by
  refine ⟨?_, ?_⟩ <;> simp [State.afterReset, Receiver.reset, Receiver.freePlaces, Receiver.reservedPlaces, Config.ingressBuffer]

theorem Move.keeps_withinCapacity (s t : State) (hs : WithinCapacity s) (h : Move s t) : WithinCapacity t := by
  rw [withinCapacity_iff] at hs ⊢
  obtain ⟨hrx, hqueues, hegress, hcues, hclips⟩ := hs
  have hcues := h.keeps_cuesFit s t hcues
  cases h
  case receive rx h => exact ⟨h hrx, hqueues, hegress, hcues, hclips⟩
  case queues loaderQ markQ cuts audioQ requestQ hl hm hc ha hr =>
    obtain ⟨hloader, hmark, hcuts, haudio, hrequest⟩ := hqueues
    exact ⟨hrx, ⟨hl.le hloader, hm.le hmark, hc.le hcuts, ha.le haudio, hr.le hrequest⟩, hegress, hcues, hclips⟩
  case egress e h => exact ⟨hrx, hqueues, hegress.move h, hcues, hclips⟩
  case freeClips l h => exact ⟨hrx, hqueues, hegress, hcues, hclips.sublist h⟩
  case storePage p g h =>
    have hfit := hclips.storePage h
    have hother : (s.storePage p g).rx = s.rx ∧ (s.storePage p g).QueuesFit ∧ (s.storePage p g).egress = s.egress := by
      unfold State.storePage
      split <;> exact ⟨rfl, hqueues, rfl⟩
    obtain ⟨hrxSame, hqueuesFit, hegressSame⟩ := hother
    exact ⟨hrxSame ▸ hrx, hqueuesFit, hegressSame ▸ hegress, hcues, hfit⟩
  case reset straps lanes =>
    exact ⟨Receiver.reset_fits .., by simp [State.QueuesFit, State.afterReset], by simp [Egress.Fits, State.afterReset, Egress.reset],
      hcues, by simp [ClipsFit, State.afterReset]⟩
  case closeProgramme p r hp =>
    have hfreed : s.freeTracks r.tracks = { s with tracks := (s.freeTracks r.tracks).tracks } := s.freeTracks_eq _
    rw [hfreed]
    rw [hfreed] at hcues
    exact ⟨hrx, hqueues, hegress, hcues, hclips⟩
  all_goals exact ⟨hrx, hqueues, hegress, hcues, hclips⟩

/-- Settles O55: a queue takes an entry only with a place free, and a cue list, a clip and a page only what the pools have left. -/
theorem stepKeepsQueuesWithinCapacity : Obligations.StepKeepsQueuesWithinCapacity := fun _ _ hs h =>
  keeps_of_step (fun _ _ hs => hs) Move.keeps_withinCapacity hs h

end Sys2Proof.Machine
end

section
/-! PROOF. The step, the resets, the checks and the lane receiver. -/

namespace Sys2Proof.Machine

/-! ### The step -/

/-- Settles O1. -/
theorem stepRunsFrontCommandOrIdles : Obligations.StepRunsFrontCommandOrIdles := by
  refine ⟨fun _ _ _ => rfl, fun s hidle => ?_⟩
  unfold step
  rw [hidle]

/-! ### Resets -/

theorem afterReset_eq_freshPart (straps : BitVec 4) (lanes : Lanes) (pending : List Instr) :
    State.afterReset straps lanes pending = freshPart straps lanes.left (lanes.returned ++ [.restart 32]) pending := rfl

/-- Settles O3: every reset brings the state after reset, with the parcel that it cuts off or that has left on the lane. -/
theorem everyResetSetsEveryBlockAsAtPowerOn : Obligations.EveryResetSetsEveryBlockAsAtPowerOn := by
  unfold Obligations.EveryResetSetsEveryBlockAsAtPowerOn
  intro straps s
  refine ⟨fun hidle => ?_, fun p hsending => ?_, fun g p rest hgrant hctl hreply => ?_⟩
  · rw [exec_powerOn_eq, exec_resetPin_eq, State.resetAtOnce, hidle, afterReset_eq_freshPart]
    exact ⟨rfl, rfl⟩
  · rw [exec_powerOn_eq, exec_resetPin_eq, State.resetAtOnce, hsending, afterReset_eq_freshPart]
    exact ⟨rfl, rfl⟩
  · rw [exec_parcelLeft_of_unitResetReply straps hgrant hctl hreply, afterReset_eq_freshPart]
    rfl

theorem State.reset_prog (p : ProgSlot) : State.reset.prog p = none := afterReset_prog ..

theorem State.reset_track (u : TrackSlot) : State.reset.track u = none := afterReset_track ..

theorem withinCapacity_reset : WithinCapacity State.reset :=
  (withinCapacity_iff _).mpr ⟨Receiver.reset_fits .., by simp [State.QueuesFit, State.reset, State.afterReset],
    by simp [Egress.Fits, State.reset, State.afterReset, Egress.reset],
    ⟨(State.poolUse_afterReset TrackBody.cueCount ..).trans_le (Nat.zero_le _),
      (State.poolUse_afterReset TrackBody.lineCount ..).trans_le (Nat.zero_le _)⟩,
    by simp [ClipsFit, State.reset, State.afterReset]⟩

/-- Settles O54: with both tables empty what is said of programmes and tracks holds of none. -/
theorem resetStateIsFreshAndKeepsEveryInvariant : Obligations.ResetStateIsFreshAndKeepsEveryInvariant := by
  refine ⟨rfl, withinCapacity_reset, Egress.reset_sound, ?programmes, ?streams, ?lists, ?tables, ?cues⟩
  case programmes => simp [ProgrammesSound, State.reset_prog]
  case streams => simp [StreamsDistinct, State.reset_prog, State.reset_track]
  case lists => simp [listsOrdered_iff, State.reset_track]
  case tables => simp [TablesAgree, State.reset_prog, State.reset_track]
  case cues => simp [CuesEndAfterCutLine, State.reset_prog]

/-! ### The checks -/

/-- The bit steps of the header check, one for each member of a list. -/
theorem crc16Bits_length {ι : Type} (l : List ι) (c : BitVec 16) : crc16Bits l.length c =
    l.foldl (fun (c : BitVec 16) _ => (c <<< (1 : Nat)) ^^^ (if c.getLsbD 15 = true then 0x1021 else 0)) c := by
  induction l generalizing c with
  | nil => rfl
  | cons _ l ih =>
    have hbit : (if c.msb then (c <<< (1 : Nat)) ^^^ 0x1021#16 else c <<< (1 : Nat))
        = (c <<< (1 : Nat)) ^^^ (if c.getLsbD 15 = true then 0x1021 else 0) := by
      rw [show c.msb = c.getLsbD 15 from c.msb_eq_getLsbD_last]
      split
      · rfl
      · exact (BitVec.xor_zero).symm
    rw [List.length_cons, crc16Bits, hbit, ih, List.foldl_cons]

theorem crc16_snoc (bs : List Byte) (b : Byte) : crc16 (bs ++ [b]) = (List.range 8).foldl
    (fun (c : BitVec 16) _ => (c <<< (1 : Nat)) ^^^ (if c.getLsbD 15 = true then 0x1021 else 0))
    (crc16 bs ^^^ ((b.setWidth 16 : BitVec 16) <<< (8 : Nat))) := by
  rw [← crc16Bits_length, crc16, List.foldl_append]
  rfl

/-- The bit steps of the body check, one for each member of a list. -/
theorem crc32Bits_length {ι : Type} (l : List ι) (c : BitVec 32) : crc32Bits l.length c =
    l.foldl (fun (c : BitVec 32) _ => (c >>> (1 : Nat)) ^^^ (if c.getLsbD 0 = true then 0xEDB88320 else 0)) c := by
  induction l generalizing c with
  | nil => rfl
  | cons _ l ih =>
    have hbit : (if c.getLsbD 0 then (c >>> (1 : Nat)) ^^^ 0xEDB88320#32 else c >>> (1 : Nat))
        = (c >>> (1 : Nat)) ^^^ (if c.getLsbD 0 = true then 0xEDB88320 else 0) := by
      split
      · rfl
      · exact (BitVec.xor_zero).symm
    rw [List.length_cons, crc32Bits, hbit, ih, List.foldl_cons]

theorem crc32_unmasked (bs : List Byte) : crc32 bs ^^^ 0xFFFFFFFF =
    bs.foldl (fun c b => crc32Bits 8 (c ^^^ (b.setWidth 32 : BitVec 32))) 0xFFFFFFFF#32 := by
  show (_ ^^^ 0xFFFFFFFF#32) ^^^ 0xFFFFFFFF#32 = _
  rw [BitVec.xor_assoc, BitVec.xor_self, BitVec.xor_zero]

theorem crc32_snoc (bs : List Byte) (b : Byte) : crc32 (bs ++ [b]) ^^^ 0xFFFFFFFF = (List.range 8).foldl
    (fun (c : BitVec 32) _ => (c >>> (1 : Nat)) ^^^ (if c.getLsbD 0 = true then 0xEDB88320 else 0))
    (crc32 bs ^^^ 0xFFFFFFFF ^^^ b.setWidth 32) := by
  rw [← crc32Bits_length, crc32_unmasked, crc32_unmasked, List.foldl_append]
  rfl

/-! ### Headers -/

/-- Outside BODY no place is reserved: one is free while the buffer holds fewer than 32. -/
theorem Receiver.freePlaces_ne_zero {r : Receiver} (h : r.reservedPlaces = 0) : (r.freePlaces != 0) = decide (r.buffer.length < 32) := by
  rw [Receiver.freePlaces, h, Config.ingressBuffer, Bool.eq_iff_iff, bne_iff_ne, decide_eq_true_eq]
  omega

/-- An OPEN receiver accepts the header with which the bytes end. -/
theorem exec_headerAccepted_of_open {s : State} {bytes : List Byte} {h : Header} (hopen : s.rx.closed = false)
    (hheader : acceptedHeader s.rx.framing bytes = some h) : exec (.headerAccepted bytes) s = .next (s.acceptHeader h) := by
  change execHeaderAccepted bytes s = _
  simp only [execHeaderAccepted, hopen, hheader, Bool.false_eq_true, if_false]

/-- An accepted header that ends no hunt after a failure reserves a place and uses a credit. -/
theorem State.acceptHeader_of_not_resyncing {s : State} (h : Header) (hreserved : s.rx.reservedPlaces = 0)
    (hsync : s.rx.resyncing = false) : s.acceptHeader h = { s with
      rx := { s.rx with framing := .body h (decide (s.rx.buffer.length < 32)), credit := s.rx.credit - 1 } } := by
  simp only [State.acceptHeader, hsync, Receiver.accept, Receiver.freePlaces_ne_zero hreserved, Bool.false_eq_true, if_false]

/-- Settles O4. -/
theorem acceptedHeaderReservesAPlaceAndUsesACredit : Obligations.AcceptedHeaderReservesAPlaceAndUsesACredit := by
  unfold Obligations.AcceptedHeaderReservesAPlaceAndUsesACredit
  refine ⟨fun bs b off len => ⟨rfl, beNat_snoc bs b, rfl, List.getD_eq_getElem?_getD ..⟩, rfl, crc16_snoc, headerAccepts_iff,
    fun _ => rfl, huntFor_iff, fun s bytes hopen => ⟨fun hheader haccepts => ?_, fun seen h hhunt hfound => ?_⟩⟩
  · rw [exec_headerAccepted_of_open hopen (h := headerOf bytes) (by rw [hheader, acceptedHeader, if_pos haccepts]),
      State.acceptHeader_of_not_resyncing _ (by rw [Receiver.reservedPlaces, hheader]) (by rw [Receiver.resyncing, hheader])]
  · rw [exec_headerAccepted_of_open hopen (h := headerOf h) (by rw [hhunt, acceptedHeader, hfound]),
      State.acceptHeader_of_not_resyncing _ (by rw [Receiver.reservedPlaces, hhunt]) (by rw [Receiver.resyncing, hhunt])]

/-- The places that are free once a header has been accepted. -/
theorem Receiver.freePlaces_accept {r : Receiver} (h : Header) (hreserved : r.reservedPlaces = 0) : (r.accept h).freePlaces =
    if r.buffer.length < 32 then 32 - (r.buffer.length + 1) else 32 - r.buffer.length := by
  unfold Receiver.accept
  rw [Receiver.freePlaces_ne_zero hreserved]
  by_cases hroom : r.buffer.length < 32 <;> simp [Receiver.freePlaces, Receiver.reservedPlaces, Config.ingressBuffer, hroom]

/-- Settles O5: the header that ends such a hunt is accepted like any other, and the places left free are granted anew. -/
theorem huntAfterAFailureEndsWithACreditRestart : Obligations.HuntAfterAFailureEndsWithACreditRestart := by
  unfold Obligations.HuntAfterAFailureEndsWithACreditRestart
  intro s bytes seen h hopen hhunt hfound
  have hreserved : s.rx.reservedPlaces = 0 := by rw [Receiver.reservedPlaces, hhunt]
  have hsync : s.rx.resyncing = true := by rw [Receiver.resyncing, hhunt]
  rw [exec_headerAccepted_of_open hopen (h := headerOf h) (by rw [hhunt, acceptedHeader, hfound]), State.acceptHeader, if_pos hsync,
    State.creditRestart]
  simp only [State.count, Receiver.freePlaces_accept _ hreserved]
  simp only [Receiver.accept, Receiver.freePlaces_ne_zero hreserved, bump32_eq]

/-- Settles O6. -/
theorem headerFailureAndOverrunAreCounted : Obligations.HeaderFailureAndOverrunAreCounted := by
  unfold Obligations.HeaderFailureAndOverrunAreCounted
  refine fun s bytes hopen => ⟨fun hheader hlength hfails => ?_, fun h hbody hlength => ?_⟩
  · change execHeaderFailure bytes s = _
    simp [execHeaderFailure, hopen, hheader, hlength, hfails, State.count, bump32_eq]
  · change execOverrun bytes s = _
    simp [execOverrun, hopen, hbody, hlength, State.count, bump32_eq]

/-! ### Parcels taken whole -/

/-- The class of a parcel by its kind and its unit address (R131). -/
theorem classOf_eq (address : BitVec 4) (p : Parcel) : classOf address p =
    if p.kind = 0x01 then .audio else if p.kind = 0x02 then .mark
    else if p.addr.extractLsb' 4 4 = address then
      if p.kind = 0x03 ∨ p.kind = 0x04 then .posted else if p.kind = 0x05 then .request else .foreign
    else .foreign := by
  simp only [classOf, Parcel.unit, kindProgAudio, kindSegmark, kindCueload, kindNarration, kindControl, beq_iff_eq, Bool.or_eq_true]

/-- A parcel that is not FOREIGN is sound when its body check and its length are (R131). -/
theorem corruptIn_eq_false_iff (cls : ParcelClass) (p : Parcel) : corruptIn cls p = false ↔
    cls = .foreign ∨ (crc32 p.body = p.bodyCheck ∧ lengthSound p = true) := by
  simp only [corruptIn, Bool.and_eq_false_iff, bne_eq_false_iff_eq, Bool.not_eq_false', Bool.and_eq_true, beq_iff_eq]

/-- The counters of a taking: the unit consumes a sound parcel that is addressed to it (R131, R137). -/
theorem UnitCounters.take_eq (c : UnitCounters) (e : IngressEntry) : c.take e = { c with
    taken := min 4294967295 (c.taken + 1)
    bodyFailures := if e.corrupt = true then min 4294967295 (c.bodyFailures + 1) else c.bodyFailures
    consumed := if (e.cls = .posted ∨ e.cls = .request) ∧ e.corrupt = false then min 4294967295 (c.consumed + 1)
      else c.consumed } := by
  have haddressed : (e.cls.addressed && !e.corrupt) = true ↔ (e.cls = .posted ∨ e.cls = .request) ∧ e.corrupt = false := by
    rw [Bool.and_eq_true, Bool.not_eq_true']
    cases e.cls <;> simp [ParcelClass.addressed]
  simp only [UnitCounters.take, bump32_eq, if_congr haddressed rfl rfl]

/-- A parcel with a reserved place that has been read to its end is taken. -/
theorem exec_takenWhole_of_body {s : State} {bytes : List Byte} {h : Header} (hopen : s.rx.closed = false)
    (hbody : s.rx.framing = .body h true) (hlength : bytes.length = h.length + 4) :
    exec (.takenWhole bytes) s = .next (s.takeWhole (parcelOf h bytes)) := by
  change execTakenWhole bytes s = _
  simp only [execTakenWhole, hbody, hopen, hlength, bne_self_eq_false, Bool.or_self, Bool.false_eq_true, if_false]

/-- Settles O7. -/
theorem takenWholeFillsTheReservedPlace : Obligations.TakenWholeFillsTheReservedPlace := by
  unfold Obligations.TakenWholeFillsTheReservedPlace
  refine ⟨rfl, crc32_snoc, fun address p => ?classes, corruptIn_eq_false_iff, fun p => ?lengths, cueloadRecords_iff,
    fun s bytes h hopen hbody hlength => ?taken⟩
  case classes =>
    rw [classOf_eq]
    refine ⟨fun h => by simp [h], fun h => by simp [h], fun ha h => ?_, fun ha h => by simp [h, ha], fun ha h => ?_, fun h => ?_⟩
    · rcases h with h | h <;> simp [h, ha]
    · rcases h with h | h | h <;> simp [h, ha]
    · have hkind : p.kind ≠ 0x01 ∧ p.kind ≠ 0x02 ∧ p.kind ≠ 0x03 ∧ p.kind ≠ 0x04 ∧ p.kind ≠ 0x05 := by
        refine ⟨?_, ?_, ?_, ?_, ?_⟩ <;> (intro heq; rw [heq] at h; revert h; decide)
      obtain ⟨h1, h2, h3, h4, h5⟩ := hkind
      rw [if_neg h1, if_neg h2, if_neg (not_or.mpr ⟨h3, h4⟩), if_neg h5, ite_self]
  case lengths =>
    unfold lengthSound
    refine ⟨fun h => by simp [h, kindProgAudio], fun h => by simp [h, kindProgAudio, kindSegmark], fun h => ?_, fun h => ?_, fun h => ?_⟩
    · simp [h, kindProgAudio, kindSegmark, kindNarration, kindCueload, Option.isSome_iff_exists]
    · simp [h, kindProgAudio, kindSegmark, kindNarration]
    · simp [h, kindProgAudio, kindSegmark, kindNarration, kindCueload, kindControl]
  case taken =>
    rw [exec_takenWhole_of_body hopen hbody hlength, State.takeWhole, UnitCounters.take_eq]
    rfl

end Sys2Proof.Machine
end

section
/-! PROOF. Routing, posted failures, grants and leavings. -/

namespace Sys2Proof.Machine

/-! ### Routing -/

/-- What becomes of the part when the head `e` of the ingress buffer is routed, by its class (R132). -/
def State.routed (s : State) (e : IngressEntry) : State :=
  match e.cls with
  | .audio => s.routeAudio e
  | .mark => s.routeMark e
  | .posted => s.routePosted e
  | .request => s.routeRequest e
  | .foreign => s.routeForeign e

theorem exec_routing_of_head {s : State} {e : IngressEntry} {rest : List IngressEntry} (hb : s.rx.buffer = e :: rest) :
    exec .routing s = .next (s.routed e) := by
  change execRouting s = _
  unfold execRouting State.routed
  rw [hb]
  dsimp only
  cases e.cls <;> rfl

/-- The programme of a stream receives copies unless it is CLOSING (R132). -/
theorem State.copyProg_of_some {s : State} {stream : Byte} {p : ProgSlot} {r : Programme} (h : s.progOfStream stream = some p)
    (hp : s.prog p = some r) : s.copyProg stream = if r.state = .closing then none else some p := by
  simp only [State.copyProg, h, Option.filter, hp, Option.any_some]
  cases r.state <;> rfl

theorem State.copyProg_of_none {s : State} {stream : Byte} (h : s.progOfStream stream = none) : s.copyProg stream = none := by
  simp only [State.copyProg, h, Option.filter]

section
variable {s : State} {e : IngressEntry} {rest : List IngressEntry}

theorem State.routeForeign_eq (hb : s.rx.buffer = e :: rest) (hroom : s.egress.thru.length < 32) :
    s.routeForeign e = s.passed e rest := by
  rw [State.routeForeign, State.thruRoom_eq, if_pos (decide_eq_true hroom), State.pass_leaveBuffer_eq hb]

theorem State.routeAudio_of_copy (hb : s.rx.buffer = e :: rest) (hroom : s.egress.thru.length < 32) (haudio : s.audioQ.length < 8)
    {p : ProgSlot} (hcopy : s.copyProg e.parcel.stream = some p) :
    s.routeAudio e = { s.passed e rest with audioQ := s.audioQ ++ [audioCopyOf e p] } := by
  rw [State.routeAudio, hcopy]
  simp only [State.thruRoom_eq, State.audioRoom_eq, hroom, haudio, decide_true, Bool.and_self, if_true, State.pass_leaveBuffer_eq hb]

theorem State.routeAudio_of_none (hb : s.rx.buffer = e :: rest) (hroom : s.egress.thru.length < 32)
    (hcopy : s.copyProg e.parcel.stream = none) : s.routeAudio e = s.passed e rest := by
  rw [State.routeAudio, hcopy]
  simp only [State.thruRoom_eq, hroom, decide_true, if_true, State.pass_leaveBuffer_eq hb]

theorem State.routeMark_of_copy (hb : s.rx.buffer = e :: rest) (hsound : e.corrupt = false) (hroom : s.egress.thru.length < 32)
    (hmark : s.markQ.length < 8) {p : ProgSlot} (hcopy : s.copyProg e.parcel.stream = some p) :
    s.routeMark e = { s.passed e rest with markQ := s.markQ ++ [markOf e.parcel p e.ordinal] } := by
  rw [State.routeMark, hsound, hcopy]
  simp only [State.thruRoom_eq, State.markRoom_eq, hroom, hmark, decide_true, Bool.and_self, if_true, Bool.false_eq_true, if_false,
    State.pass_leaveBuffer_eq hb]

theorem State.routeMark_of_none (hb : s.rx.buffer = e :: rest) (hsound : e.corrupt = false) (hroom : s.egress.thru.length < 32)
    (hcopy : s.copyProg e.parcel.stream = none) : s.routeMark e = s.passed e rest := by
  rw [State.routeMark, hsound, hcopy]
  simp only [State.thruRoom_eq, hroom, decide_true, if_true, Bool.false_eq_true, if_false, State.pass_leaveBuffer_eq hb]

theorem State.routeMark_of_corrupt (hb : s.rx.buffer = e :: rest) (hcorrupt : e.corrupt = true) (hroom : s.egress.thru.length < 32) :
    s.routeMark e = (s.passed e rest).postMarkFailure e := by
  rw [State.routeMark, if_pos hcorrupt, State.thruRoom_eq, if_pos (decide_eq_true hroom), State.pass_leaveBuffer_eq hb]

/-- Settles O8. -/
theorem routingPassesParcelsAndCopiesThem : Obligations.RoutingPassesParcelsAndCopiesThem := by
  unfold Obligations.RoutingPassesParcelsAndCopiesThem
  intro s e rest hb hroom
  rw [exec_routing_of_head hb]
  refine ⟨?foreign, ?audio, ?mark, ?noProgramme, ?corruptMark⟩
  case foreign =>
    intro hc
    rw [State.routed, hc, State.routeForeign_eq hb hroom]
  case audio =>
    intro hc p r hstream hp
    rw [State.routed, hc]
    refine ⟨fun hr haudio => ?_, fun hr => ?_⟩
    · rw [State.routeAudio_of_copy hb hroom haudio (p := p) (by rw [State.copyProg_of_some hstream hp, if_neg hr])]
      rfl
    · rw [State.routeAudio_of_none hb hroom (by rw [State.copyProg_of_some hstream hp, if_pos hr])]
  case mark =>
    intro hc hsound p r hstream hp
    rw [State.routed, hc]
    refine ⟨fun hr hmark => ?_, fun hr => ?_⟩
    · rw [State.routeMark_of_copy hb hsound hroom hmark (p := p) (by rw [State.copyProg_of_some hstream hp, if_neg hr])]
      rfl
    · rw [State.routeMark_of_none hb hsound hroom (by rw [State.copyProg_of_some hstream hp, if_pos hr])]
  case noProgramme =>
    rintro (hc | hc) hstream
    · rw [State.routed, hc, State.routeAudio_of_none hb hroom (State.copyProg_of_none hstream)]
    · rw [State.routed, hc]
      cases hcorrupt : e.corrupt with
      | false => rw [State.routeMark_of_none hb hcorrupt hroom (State.copyProg_of_none hstream)]
      | true =>
        have hpassed : (s.passed e rest).progOfStream e.parcel.stream = none := hstream
        rw [State.routeMark_of_corrupt hb hcorrupt hroom, State.postMarkFailure, hpassed]
  case corruptMark =>
    intro hc hcorrupt p r hstream hp
    have hpassed : (s.passed e rest).progOfStream e.parcel.stream = some p := hstream
    rw [State.routed, hc, State.routeMark_of_corrupt hb hcorrupt hroom, State.postMarkFailure, hpassed]
    exact congrArg _ (State.post_of_some (s := s.passed e rest) hp _)

theorem postedOrigin_eq (p : Parcel) : postedOrigin p = if p.kind = 0x04 then .narration else .cueload := by
  simp only [postedOrigin, kindNarration, beq_iff_eq]

theorem loaderEntryOf_eq (e : IngressEntry) : loaderEntryOf e =
    if e.parcel.kind = 0x04 then .narration e.parcel e.ordinal else .cueload e.parcel e.ordinal := by
  simp only [loaderEntryOf, kindNarration, beq_iff_eq]

theorem State.routePosted_of_corrupt (hb : s.rx.buffer = e :: rest) (hcorrupt : e.corrupt = true) :
    s.routePosted e = (s.unbuffered rest).oneDropped.post e.parcel.slot
      ⟨.integrity, if e.parcel.kind = 0x04 then .narration else .cueload, none, none, e.ordinal⟩ := by
  rw [State.routePosted, if_pos hcorrupt, State.leaveBuffer_eq hb, State.countDropped_eq, integrityFailure, postedOrigin_eq]

/-- Settles O9. -/
theorem addressedParcelsGoInwardOrAreDropped : Obligations.AddressedParcelsGoInwardOrAreDropped := by
  unfold Obligations.AddressedParcelsGoInwardOrAreDropped
  intro s e rest hb
  rw [exec_routing_of_head hb]
  refine ⟨fun hc hsound hroom => ?_, fun hc hsound hroom => ?_, fun hc hcorrupt => ?_, fun hc hcorrupt hp => ?_,
    fun hc hcorrupt r hp => ?_⟩
  · rw [State.routed, hc]
    simp only [State.routePosted, hsound, State.loaderRoom_eq, hroom, decide_true, if_true, Bool.false_eq_true, if_false,
      State.leaveBuffer_eq hb, loaderEntryOf_eq]
  · rw [State.routed, hc]
    simp only [State.routeRequest, hsound, State.requestRoom_eq, hroom, decide_true, if_true, Bool.false_eq_true, if_false,
      State.leaveBuffer_eq hb]
    rfl
  · rw [State.routed, hc]
    simp only [State.routeRequest, hcorrupt, if_true, State.leaveBuffer_eq hb, State.countDropped_eq]
  · rw [State.routed, hc]
    exact congrArg _ ((State.routePosted_of_corrupt hb hcorrupt).trans (State.post_of_none (s := (s.unbuffered rest).oneDropped) hp _))
  · rw [State.routed, hc]
    exact congrArg _ ((State.routePosted_of_corrupt hb hcorrupt).trans (State.post_of_some (s := (s.unbuffered rest).oneDropped) hp _))

/-- Settles O10. -/
theorem routingWaitsForRoom : Obligations.RoutingWaitsForRoom := by
  unfold Obligations.RoutingWaitsForRoom
  intro s e rest hb
  rw [exec_routing_of_head hb]
  refine ⟨fun hc hfull => ?_, fun hc hfull p r hstream hp hr => ?_, fun hc hsound hfull p r hstream hp hr => ?_,
    fun hc hsound hfull => ?_, fun hc hsound hfull => ?_⟩
  · have hroom : s.thruRoom = false := by rw [State.thruRoom_eq]; exact decide_eq_false (Nat.not_lt.mpr hfull)
    rw [State.routed]
    rcases hc with hc | hc | hc <;> rw [hc]
    · simp [State.routeForeign, hroom]
    · simp only [State.routeAudio, hroom]
      cases s.copyProg e.parcel.stream <;> simp
    · simp only [State.routeMark, hroom]
      cases s.copyProg e.parcel.stream <;> simp
  · have hroom : s.audioRoom = false := by rw [State.audioRoom_eq]; exact decide_eq_false (Nat.not_lt.mpr hfull)
    rw [State.routed, hc]
    simp [State.routeAudio, State.copyProg_of_some hstream hp, hr, hroom]
  · have hroom : s.markRoom = false := by rw [State.markRoom_eq]; exact decide_eq_false (Nat.not_lt.mpr hfull)
    rw [State.routed, hc]
    simp [State.routeMark, hsound, State.copyProg_of_some hstream hp, hr, hroom]
  · have hroom : s.loaderRoom = false := by rw [State.loaderRoom_eq]; exact decide_eq_false (Nat.not_lt.mpr hfull)
    rw [State.routed, hc]
    simp [State.routePosted, hsound, hroom]
  · have hroom : s.requestRoom = false := by rw [State.requestRoom_eq]; exact decide_eq_false (Nat.not_lt.mpr hfull)
    rw [State.routed, hc]
    simp [State.routeRequest, hsound, hroom]

end

/-! ### Posted failures -/

/-- Settles O11. -/
theorem postedFailureActsByState : Obligations.PostedFailureActsByState := by
  unfold Obligations.PostedFailureActsByState
  intro r f
  refine ⟨fun hcode => ?_, fun hcode hstate => ?_, fun hcode hstate => ?_, fun hcode hstate hesc => ?_, fun hcode hstate hesc => ?_⟩
  · simp [Programme.post, hcode, satAdd]
  · rcases hstate with hstate | hstate <;> simp [Programme.post, hcode, hstate, satAdd]
  · cases hfirst : r.firstError <;> simp [Programme.post, Programme.capture, hcode, hstate, satAdd, hfirst]
  · cases hfirst : r.firstError <;>
      simp [Programme.post, Programme.capture, Programme.escalate, escalates, hcode, hstate, satAdd, hfirst, hesc]
  · cases hfirst : r.firstError <;>
      simp [Programme.post, Programme.capture, Programme.escalate, escalates, hcode, hstate, satAdd, hfirst, hesc]

/-! ### Grants -/

theorem GrantMode.allowance_eq (m : GrantMode) : m.allowance = match m with | .single => 1 | .batch n => n := by
  cases m <;> rfl

/-- With no grant in force and credit left, the chosen requester is granted. -/
theorem Egress.makeGrant_of_choose {e : Egress} {r : Requester} (hgrant : e.grant = none) (hcredit : 0 < e.credit)
    (hchoose : e.choose e.nextSettings.policy e.nextPassOver = some r) : e.makeGrant = e.grantTo r := by
  have hzero : (e.credit == 0) = false := by rw [beq_eq_false_iff_ne]; omega
  simp only [Egress.makeGrant, hgrant, hzero, hchoose, Option.isSome_none, Bool.or_self, Bool.false_eq_true, if_false]

/-- The first member of a list that a test finds. -/
theorem find?_append_cons {α : Type} {q : α → Bool} {front back : List α} {x : α} (hfront : ∀ y ∈ front, q y = false)
    (hx : q x = true) : (front ++ x :: back).find? q = some x := by
  rw [List.find?_append, List.find?_eq_none.mpr (by simpa using hfront), Option.none_or, List.find?_cons, hx]

/-- The pass-over counts by which a grant under FIXED is chosen: those of a change to it are 0 (R146). -/
theorem Egress.nextPassOver_of_fixed {e : Egress} (h : e.nextSettings.policy = .fixed) :
    e.nextPassOver = if e.settings.policy = .fixed then e.passOver else ⟨0, 0, 0, 0⟩ := by
  rw [Egress.nextPassOver, h]
  exact if_congr eq_comm rfl rfl

/-- Settles O13. -/
theorem grantUnderRotateSearchesTheCycle : Obligations.GrantUnderRotateSearchesTheCycle := by
  unfold Obligations.GrantUnderRotateSearchesTheCycle
  intro s r front back hgrant hcredit settings hpolicy hcycle hfront hready
  have hnext : s.egress.nextSettings.policy = .rotate := hpolicy
  have horder : rotateOrder s.egress.last = front ++ r :: back := by
    rw [← hcycle]
    cases s.egress.last <;> rfl
  have hchoose : s.egress.choose s.egress.nextSettings.policy s.egress.nextPassOver = some r := by
    rw [hnext, Egress.choose, Egress.chooseRotate, horder]
    exact find?_append_cons hfront hready
  have hcounts : s.egress.passOverAfter s.egress.nextSettings.policy r s.egress.nextPassOver =
      if s.egress.settings.policy = .rotate then s.egress.passOver else ⟨0, 0, 0, 0⟩ := by
    rw [hnext, Egress.passOverAfter, Egress.nextPassOver, hnext]
    exact if_congr eq_comm rfl rfl
  rw [exec_grant_eq, Egress.makeGrant_of_choose hgrant hcredit hchoose, Egress.grantTo, hcounts, GrantMode.allowance_eq]
  rfl

/-- Under FIXED the guard is asked before the priority (R143). -/
theorem Egress.chooseFixed_eq {e : Egress} {counts : PerRequester Nat} {r : Requester} {front back : List Requester}
    (horder : priorityOrder = front ++ r :: back) (hready : e.ready r = true)
    (h : (counts.get r = 64 ∧ ∀ x ∈ front, ¬ (e.ready x = true ∧ counts.get x = 64)) ∨
      ((∀ x, ¬ (e.ready x = true ∧ counts.get x = 64)) ∧ ∀ x ∈ front, e.ready x = false)) :
    e.chooseFixed counts = some r := by
  have hguard : ∀ x, (e.ready x && counts.get x == Config.passOverLimit) = true ↔ e.ready x = true ∧ counts.get x = 64 := by
    intro x
    rw [Bool.and_eq_true, beq_iff_eq, Config.passOverLimit]
  unfold Egress.chooseFixed
  rcases h with ⟨hlimit, hfront⟩ | ⟨hnone, hfront⟩
  · rw [horder, find?_append_cons (fun x hx => Bool.eq_false_iff.mpr fun hx' => hfront x hx ((hguard x).mp hx'))
      ((hguard r).mpr ⟨hready, hlimit⟩), Option.some_or]
  · rw [List.find?_eq_none.mpr fun x _ hx => hnone x ((hguard x).mp hx), Option.none_or, horder, find?_append_cons hfront hready]

/-- Settles O14. -/
theorem grantUnderFixedFollowsPriorityAndGuard : Obligations.GrantUnderFixedFollowsPriorityAndGuard := by
  unfold Obligations.GrantUnderFixedFollowsPriorityAndGuard
  intro s r front back hgrant hcredit settings counts after hpolicy horder hready h
  have hnext : s.egress.nextSettings.policy = .fixed := hpolicy
  have hcounts : s.egress.nextPassOver = counts := Egress.nextPassOver_of_fixed hnext
  have hchoose : s.egress.choose s.egress.nextSettings.policy s.egress.nextPassOver = some r := by
    rw [hnext, hcounts]
    exact Egress.chooseFixed_eq horder hready h
  have hafter : s.egress.passOverAfter s.egress.nextSettings.policy r s.egress.nextPassOver =
      ⟨after .ctl, after .mix, after .seg, after .thru⟩ := by
    rw [hnext, hcounts]
    rfl
  rw [exec_grant_eq, Egress.makeGrant_of_choose hgrant hcredit hchoose, Egress.grantTo, hafter, GrantMode.allowance_eq]
  rfl

/-! ### Leaving -/

/-- A parcel that is not the UNIT-RESET reply leaves: its place is free, and the grant goes on or ends (R140, R142). -/
theorem exec_parcelLeft_of_pop {s : State} {g : Grant} {p : Parcel} {e : Egress} (straps : BitVec 4) (hgrant : s.egress.grant = some g)
    (hhead : s.egress.head? g.requester = some p) (hpop : s.egress.pop g.requester = e)
    (hreply : ¬ (g.requester = .ctl ∧ s.egress.resetReplyAtHead = true)) :
    exec (.parcelLeft straps) s = .next { s with
      lanes := { s.lanes with left := s.lanes.left ++ [.whole p] }
      egress := if g.sent + 1 < g.allowance ∧ e.ready g.requester = true ∧ e.credit ≠ 0 then
          { e with grant := some { g with sent := g.sent + 1 }, credit := e.credit - 1 }
        else { e with grant := none } } := by
  have hon : e.goesOn g = true ↔ g.sent + 1 < g.allowance ∧ e.ready g.requester = true ∧ e.credit ≠ 0 := by
    simp only [Egress.goesOn, Bool.and_eq_true, decide_eq_true_eq, bne_iff_ne, and_assoc]
  rw [exec_parcelLeft_of_sending straps hgrant hhead, if_neg hreply, Egress.afterLeaving, hpop]
  simp only [if_congr hon rfl rfl]
  rfl

/-- Settles O15. -/
theorem parcelLeftFreesItsPlaceAndTheGrantGoesOnOrEnds : Obligations.ParcelLeftFreesItsPlaceAndTheGrantGoesOnOrEnds := by
  unfold Obligations.ParcelLeftFreesItsPlaceAndTheGrantGoesOnOrEnds
  rintro straps s g p e hgrant (⟨hr, rest, hq, he⟩ | ⟨hr, rest, hq, he⟩ | ⟨hr, rest, hq, he⟩ | ⟨hr, rest, hq, he⟩)
  · exact exec_parcelLeft_of_pop straps hgrant (by simp [hr, Egress.head?, hq, CtlPlace.parcel?]) (by simp [hr, Egress.pop, hq, he])
      (by simp [Egress.resetReplyAtHead, hq])
  · exact exec_parcelLeft_of_pop straps hgrant (by simp [hr, Egress.head?, hq]) (by simp [hr, Egress.pop, hq, he]) (by simp [hr])
  · exact exec_parcelLeft_of_pop straps hgrant (by simp [hr, Egress.head?, hq]) (by simp [hr, Egress.pop, hq, he]) (by simp [hr])
  · exact exec_parcelLeft_of_pop straps hgrant (by simp [hr, Egress.head?, hq]) (by simp [hr, Egress.pop, hq, he]) (by simp [hr])

end Sys2Proof.Machine
end

section
/-! PROOF. The cue loader: taking an entry, and a subtitle PLACE that is inserted. -/

namespace Sys2Proof.Machine

/-! ### Taking an entry -/

/-- A parcel entry at the head of the loader queue is taken by the state of its programme (R30). -/
theorem exec_loaderTake_of_parcel {s : State} {q : Parcel} {o : BitVec 32} {rest : List LoaderEntry} (narration : Bool)
    (hl : s.loading = none) (hq : s.loaderQ = (if narration = true then .narration q o else .cueload q o) :: rest) :
    exec .loaderTake s = .next (({ s with loaderQ := rest } : State).takeParcel q.slot
      (if narration = true then .narration else .cueload) o
      (if narration = true then { s with loaderQ := rest, loading := some (.narration q o) }
        else ({ s with loaderQ := rest } : State).takeCueload q o)) := by
  change execLoaderTake s = _
  rw [execLoaderTake_of_head hl hq]
  cases narration <;> rfl

/-- A sound CUELOAD of 1 to 16 records becomes the current entry (R32). -/
theorem State.takeCueload_of_records {s : State} {q : Parcel} {o : BitVec 32} {records : List (List Byte)}
    (hrecords : cueloadRecords q.body = some records) (hlow : 1 ≤ records.length) (hhigh : records.length ≤ 16) :
    s.takeCueload q o = { s with loading := some (.cueload ⟨q.slot, (byteAt q.body 0).toNat, o, records⟩) } := by
  have hlen := length_of_cueloadRecords hrecords
  simp only [State.takeCueload, ← hlen, hrecords, Option.getD_some]
  rw [if_neg (by omega)]

/-- A CUELOAD of no record or of more than 16 is refused whole (R32). -/
theorem State.takeCueload_of_count {s : State} {q : Parcel} {o : BitVec 32} {records : List (List Byte)}
    (hrecords : cueloadRecords q.body = some records) (hcount : records.length = 0 ∨ 16 < records.length) :
    s.takeCueload q o = s.post q.slot ⟨.range, .cueload, some (byteAt q.body 0).toNat, none, o⟩ := by
  have hlen := length_of_cueloadRecords hrecords
  simp only [State.takeCueload, ← hlen]
  rw [if_pos hcount]

/-- Settles O16. -/
theorem loaderTakesAnEntryByTheStateOfItsProgramme : Obligations.LoaderTakesAnEntryByTheStateOfItsProgramme := by
  unfold Obligations.LoaderTakesAnEntryByTheStateOfItsProgramme
  intro s q o rest narration hl hq taken origin
  rw [exec_loaderTake_of_parcel narration hl hq]
  refine ⟨fun hp => ?free, fun r hp => ⟨fun hr => ?halted, fun hr => ?drain, fun hr hn => ?page, fun hr hn records hrec hlow hhigh => ?records,
    fun hr hn records hrec hcount => ?count⟩⟩
  all_goals have hprog : taken.prog q.slot = s.prog q.slot := rfl
  all_goals rw [hp] at hprog
  all_goals rw [State.takeParcel, hprog]
  case free => rfl
  case halted => simp only [hr]; exact congrArg _ (State.post_of_some hprog _)
  case drain =>
    have hpost := State.post_of_some (s := taken.oneDiscarded) hprog (haltedFailure origin o)
    rcases hr with hr | hr <;> (simp only [hr]; exact congrArg _ hpost)
  case page => simp only [hr, hn, if_true]; rfl
  case records =>
    simp only [hr, hn, Bool.false_eq_true, if_false]
    rw [State.takeCueload_of_records hrec hlow hhigh]
  case count =>
    simp only [hr, hn, Bool.false_eq_true, if_false]
    rw [State.takeCueload_of_count hrec hcount]
    exact congrArg _ (State.post_of_some hprog _)

/-- Settles O17. -/
theorem fenceMarkerReportsAndClears : Obligations.FenceMarkerReportsAndClears := by
  unfold Obligations.FenceMarkerReportsAndClears
  intro s p tag rest r d ctl hl hq hp hd hk hfills
  have hprog : ({ s with loaderQ := rest } : State).prog p = some r := hp
  have hctl := hfills.fillPlace
  change execLoaderTake s = _
  rw [execLoaderTake_of_head hl hq]
  simp only [State.answerFence, hprog, hd, hk, if_true, State.modProg_of_some hprog, State.answerDeferred, DeferredKind.name, fenceFields]
  exact congrArg (fun c => Host.Outcome.next (State.setCtl (State.setProg { s with loaderQ := rest } p
    (some { r with firstError := none, failureCount := 0, deferred := none })) c)) hctl

/-! ### Records -/

section
variable {s : State} {c : CueLoading} {rec : List Byte} {rest : List (List Byte)} {r : Programme} {t : TrackSlot} {x : Track}

theorem AtRecord.prog (h : AtRecord s c rec rest r) : s.prog c.prog = some r := h.2.2.1

theorem RecordFits.track (h : RecordFits s c rec t x) : s.track t = some x := h.2.1

/-- A PLACE that is refused fails with its code, and the loader goes on. -/
theorem AtRecord.exec_place_of_error (h : AtRecord s c rec rest r) (hop : recordOp rec = 1) {code : ResultCode}
    (he : s.applyPlace c r rec = .error code) : exec .place s = .next (s.recordFailed c rest r (recordId rec) code) := by
  change Host.Outcome.next (s.reachRecord (· == 1) State.applyPlace) = _
  rw [h.reachRecord _ (by rw [hop]; rfl), he]
  exact congrArg _ (h.failRecord code)

/-- A PLACE that is not refused is applied, and the loader goes on. -/
theorem AtRecord.exec_place_of_ok (h : AtRecord s c rec rest r) (hop : recordOp rec = 1) {s' : State}
    (he : s.applyPlace c r rec = .ok s') : exec .place s = .next { s' with loading := leftToLoad c rest } := by
  change Host.Outcome.next (s.reachRecord (· == 1) State.applyPlace) = _
  rw [h.reachRecord _ (by rw [hop]; rfl), he]
  exact congrArg _ (s'.advanceLoader_eq c rest)

theorem AtRecord.exec_withdraw_of_error (h : AtRecord s c rec rest r) (hop : recordOp rec = 2) {code : ResultCode}
    (he : s.applyWithdraw c r rec = .error code) : exec .withdraw s = .next (s.recordFailed c rest r (recordId rec) code) := by
  change Host.Outcome.next (s.reachRecord (· == 2) State.applyWithdraw) = _
  rw [h.reachRecord _ (by rw [hop]; rfl), he]
  exact congrArg _ (h.failRecord code)

theorem AtRecord.exec_withdraw_of_ok (h : AtRecord s c rec rest r) (hop : recordOp rec = 2) {s' : State}
    (he : s.applyWithdraw c r rec = .ok s') : exec .withdraw s = .next { s' with loading := leftToLoad c rest } := by
  change Host.Outcome.next (s.reachRecord (· == 2) State.applyWithdraw) = _
  rw [h.reachRecord _ (by rw [hop]; rfl), he]
  exact congrArg _ (s'.advanceLoader_eq c rest)

theorem AtRecord.exec_other_of_error (h : AtRecord s c rec rest r) (hplace : recordOp rec ≠ 1) (hwithdraw : recordOp rec ≠ 2)
    {code : ResultCode} (he : s.applyOther c r rec = .error code) :
    exec .cueRecordOtherOp s = .next (s.recordFailed c rest r (recordId rec) code) := by
  change Host.Outcome.next (s.reachRecord (fun op => op != 1 && op != 2) State.applyOther) = _
  rw [h.reachRecord _ (by simp [hplace, hwithdraw]), he]
  exact congrArg _ (h.failRecord code)

/-! ### PLACE of a subtitle cue -/

theorem RecordFits.applyPlace_sub (h : RecordFits s c rec t x) {b : SubTrack} (hb : x.body = .sub b) {pl : SubPlace}
    (hpl : subPlaceOf rec = some pl) : s.applyPlace c r rec = s.placeSub c.prog r t x b pl := by
  rw [State.applyPlace, h.recordTrack]
  simp only [hb, hpl]

theorem RecordFits.applyPlace_sub_none (h : RecordFits s c rec t x) {b : SubTrack} (hb : x.body = .sub b)
    (hpl : subPlaceOf rec = none) : s.applyPlace c r rec = .error .range := by
  rw [State.applyPlace, h.recordTrack]
  simp only [hb, hpl]

theorem RecordFits.applyPlace_ad (h : RecordFits s c rec t x) {b : AdTrack} (hb : x.body = .ad b) {pl : AdPlace}
    (hpl : adPlaceOf rec = some pl) : s.applyPlace c r rec = s.placeAd c.prog r t b pl := by
  rw [State.applyPlace, h.recordTrack]
  simp only [hb, hpl]

theorem RecordFits.applyPlace_ad_none (h : RecordFits s c rec t x) {b : AdTrack} (hb : x.body = .ad b)
    (hpl : adPlaceOf rec = none) : s.applyPlace c r rec = .error .range := by
  rw [State.applyPlace, h.recordTrack]
  simp only [hb, hpl]

/-- No cue of an id is emitted: the one that is found neither (R42). -/
theorem any_emitted_find? {l : List SubCue} {id : Nat} (h : ∀ y ∈ l, y.id = id → y.emitted = false) :
    (l.find? fun y => y.id == id).any (·.emitted) = false := by
  cases hf : l.find? fun y => y.id == id with
  | none => rfl
  | some y => exact h y (List.mem_of_find?_eq_some hf) (by simpa using List.find?_some hf)

/-- A tested cue for which the store has room stands in its list, is counted, and may resolve the window (R43, R44, R79). -/
theorem State.placeSub_of_room {p : ProgSlot} {b : SubTrack} {pl : SubPlace} {cue : SubCue} (hp : s.prog p = some r)
    (ht : s.track t = some x) (hb : x.body = .sub b) (htested : testedSubCue pl r x b = .ok cue)
    (hemitted : ∀ y ∈ b.cues, y.id = cue.id → y.emitted = false)
    (hroom : s.RoomFor b.cues.length cue.lines.length ((b.cues.find? fun y => y.id == cue.id).map fun y => y.lines.length)) :
    s.placeSub p r t x b pl = .ok (((s.setTrack t (some { x with body := .sub (b.insert cue) })).setProg p
      (some { r with counters := { r.counters with
        cuesAccepted := min 4294967295 (r.counters.cuesAccepted + 1)
        cuesTrimmed := if cue.trimmed = true then min 4294967295 (r.counters.cuesTrimmed + 1) else r.counters.cuesTrimmed } })).resolveWindow
      p t x b r.cutLine cue.start) := by
  have hprog : (s.setTrack t (some { x with body := .sub (b.insert cue) })).prog p = some r := hp
  simp only [State.placeSub, htested, any_emitted_find? hemitted, (State.roomForSub_iff s b _ cue).mpr hroom, Bool.not_true,
    Bool.false_eq_true, if_false, State.modSub_of_sub ht hb, State.countIn_of_some hprog, bump32_eq]

/-- A window that the cue's start leaves as it is, and that is not at its end, leaves the track as it is. -/
theorem State.resolveWindow_of_lowered_eq {p : ProgSlot} {b b' : SubTrack} {x' : Track} {cutLine start : Nat} (ht : s.track t = some x')
    (hb : x'.body = .sub b') (hwindow : b'.window = b.window)
    (h : ∀ w, x.testWindow b = some w → w.lowered start = w ∧ ¬ (w.mode = .untilResume ∧ w.reached cutLine = true)) :
    s.resolveWindow p t x b cutLine start = s := by
  unfold State.resolveWindow
  split
  · rfl
  next w hw =>
    obtain ⟨hsame, hopen⟩ := h w hw
    have hbw : b.window = some w := by
      unfold Track.testWindow at hw
      split at hw
      · exact hw
      · cases hw
    have hb' : ({ b' with window := some w } : SubTrack) = b' := by rw [← hbw, ← hwindow]
    have hx' : ({ x' with body := .sub b' } : Track) = x' := by rw [← hb]
    dsimp only
    rw [hsame, if_neg hopen, State.modSub_of_sub ht hb, hb', hx', State.setTrack_of_eq ht]

/-- Of a window in the UNTIL-RESUME mode, a start at or after F lowers the end (R79). -/
theorem Window.lowered_of_le {f start : Nat} {e : Option Nat} (h : f ≤ start) :
    (⟨f, e, .untilResume⟩ : Window).lowered start = ⟨f, some (min start (e.getD start)), .untilResume⟩ := by
  simp only [Window.lowered, Nat.not_lt.mpr h, if_false]
  cases e with
  | none => simp
  | some e => simp [min_comm]

end

/-- The conversion, its rounding and its monotony (R4, R5). -/
theorem Timebase.tick_eq (tb : Timebase) (u : Nat) : tb.tick u =
    if tb.origin + (2 * (u * 90000 * tb.d) + tb.n) / (2 * tb.n) ≤ 281474976710655
      then some (tb.origin + (2 * (u * 90000 * tb.d) + tb.n) / (2 * tb.n)) else none := by
  have hoffset : tb.offset u = (2 * (u * 90000 * tb.d) + tb.n) / (2 * tb.n) := by
    rw [Timebase.offset]
    congr 2
    ring
  rw [Timebase.tick, hoffset, maxTick]

/-- A quotient rounded to the nearest lies within half a unit. -/
theorem roundedDiv_bounds (m n : Nat) (hn : 1 ≤ n) :
    2 * ((2 * m + n) / (2 * n)) * n ≤ 2 * m + n ∧ 2 * m + n < 2 * ((2 * m + n) / (2 * n) + 1) * n := by
  have hlow := Nat.div_mul_le_self (2 * m + n) (2 * n)
  have hhigh := Nat.lt_div_mul_add (a := 2 * m + n) (b := 2 * n) (by omega)
  constructor
  · calc 2 * ((2 * m + n) / (2 * n)) * n = (2 * m + n) / (2 * n) * (2 * n) := by ring
      _ ≤ 2 * m + n := hlow
  · calc 2 * m + n < (2 * m + n) / (2 * n) * (2 * n) + 2 * n := hhigh
      _ = 2 * ((2 * m + n) / (2 * n) + 1) * n := by ring

theorem subPlaceOf_of_inRange {rec : List Byte} {ls : List (List Byte)} (hlen : 20 ≤ rec.length)
    (hlines : linesOf (byteAt rec 19).toNat (rec.drop 20) = some ls) (hregion : (byteAt rec 16).toNat ≤ 15)
    (hstyle : (byteAt rec 17).toNat ≤ 31) (hlow : 1 ≤ (byteAt rec 19).toNat) (hhigh : (byteAt rec 19).toNat ≤ 4)
    (heach : ∀ l ∈ ls, 1 ≤ l.length ∧ l.length ≤ 96) :
    subPlaceOf rec = some {
      id := fieldAt rec 4 4
      startUnit := fieldAt rec 8 4
      endUnit := fieldAt rec 12 4
      region := (byteAt rec 16).toNat
      style := (byteAt rec 17).toNat
      forced := (byteAt rec 18).getLsbD 0
      lines := ls } := by
  have hcount := length_of_linesOf _ _ _ hlines
  have heach' : (ls.all fun l => decide (1 ≤ l.length) && decide (l.length ≤ 96)) = true := by
    simpa only [List.all_eq_true, Bool.and_eq_true, decide_eq_true_eq] using heach
  simp only [subPlaceOf, Nat.not_lt.mpr hlen, if_false, hlines, hregion, hstyle, hcount, hlow, hhigh, heach', decide_true, Bool.and_self,
    if_true]
  rfl

/-- Settles O18. -/
theorem placeInsertsASubtitleCue : Obligations.PlaceInsertsASubtitleCue := by
  unfold Obligations.PlaceInsertsASubtitleCue
  refine ⟨fun tb u => ⟨tb.tick_eq u, fun hn => roundedDiv_bounds _ _ hn, fun v a z huv ha hz => tb.tick_mono huv ha hz⟩,
    fun rec ls hlen hlines hregion hstyle hlow hhigh heach => subPlaceOf_of_inRange hlen hlines hregion hstyle hlow hhigh heach,
    SubCue.before_iff, fun x cues => insertBy_split _ x cues, ?_⟩
  intro s c rec rest r t x b pl a z stop hat hfits hop hb hpl ha hz haz hcut hadmits hwindow hemitted hroom trimmed cue cues
  have htested := hadmits.testedSubCue ha hz haz hcut
  have hplaced := State.placeSub_of_room (p := c.prog) (cue := cue) hat.prog hfits.track hb htested hemitted hroom
  rw [State.resolveWindow_of_lowered_eq (x := x) (b := b)
    (x' := { x with body := .sub (b.insert cue) }) (b' := b.insert cue) (by simp) rfl rfl] at hplaced
  · exact hat.exec_place_of_ok hop ((hfits.applyPlace_sub hb hpl).trans hplaced)
  · intro w hw
    unfold Track.testWindow at hw
    split at hw
    next hconcealing =>
      obtain ⟨f, e, mode⟩ := w
      cases mode with
      | span => exact ⟨rfl, nofun⟩
      | untilResume =>
        obtain ⟨hstart, hend⟩ := hwindow hconcealing f e hw
        refine ⟨by simp only [Window.lowered, hstart, if_true, cue], fun ⟨_, hreached⟩ => ?_⟩
        rw [Window.reached, Option.any_eq_true] at hreached
        obtain ⟨xEnd, he, hle⟩ := hreached
        exact absurd (of_decide_eq_true hle) (Nat.not_le.mpr (hend xEnd he))
    · cases hw

end Sys2Proof.Machine
end

section
/-! PROOF. The cue loader: a PLACE that is refused, one that resolves a window, and a description PLACE. -/

namespace Sys2Proof.Machine

/-! ### PLACE refused -/

/-- A subtitle record with a field or a length out of range states no PLACE (R38, R163). -/
theorem subPlaceOf_eq_none {rec : List Byte} (h : rec.length < 20 ∨ 15 < (byteAt rec 16).toNat ∨ 31 < (byteAt rec 17).toNat ∨
    (byteAt rec 19).toNat = 0 ∨ 4 < (byteAt rec 19).toNat ∨ linesOf (byteAt rec 19).toNat (rec.drop 20) = none ∨
    ∃ ls, linesOf (byteAt rec 19).toNat (rec.drop 20) = some ls ∧ ∃ l ∈ ls, l.length = 0 ∨ 96 < l.length) :
    subPlaceOf rec = none := by
  unfold subPlaceOf
  split
  · rfl
  next hlen =>
    split
    · rfl
    next ls hlines =>
      have hcount := length_of_linesOf _ _ _ hlines
      refine if_neg fun hall => ?_
      simp only [Bool.and_eq_true, decide_eq_true_eq, List.all_eq_true, hcount] at hall
      obtain ⟨⟨⟨⟨hregion, hstyle⟩, hlow⟩, hhigh⟩, heach⟩ := hall
      rcases h with h | h | h | h | h | h | ⟨ls', hls', l, hl, h⟩
      · exact hlen h
      · omega
      · omega
      · omega
      · omega
      · cases hlines.symm.trans h
      · cases hlines.symm.trans hls'
        have := heach l hl
        omega

/-- A description record with a field or a length out of range states no PLACE (R38, R163). -/
theorem adPlaceOf_eq_none {rec : List Byte} (h : rec.length ≠ 26 ∨ fieldAt rec 16 4 = 0 ∨ (byteAt rec 20).toNat = 0 ∨
    64 < (byteAt rec 20).toNat ∨ fieldAt rec 12 4 < fieldAt rec 8 4) : adPlaceOf rec = none := by
  refine if_neg fun hall => ?_
  simp only [Bool.and_eq_true, decide_eq_true_eq, beq_iff_eq, bne_iff_ne] at hall
  obtain ⟨⟨⟨⟨hlen, hclip⟩, hhold⟩, hhigh⟩, htimes⟩ := hall
  omega

section
variable {s : State} {r : Programme} {t : TrackSlot} {x : Track} {p : ProgSlot}

theorem State.placeSub_of_error {b : SubTrack} {pl : SubPlace} {code : ResultCode} (h : testedSubCue pl r x b = .error code) :
    s.placeSub p r t x b pl = .error code := by
  rw [State.placeSub, h]

theorem SubPlace.cue_of_no_tick {pl : SubPlace} {tb : Timebase} (h : tb.tick pl.startUnit = none ∨ tb.tick pl.endUnit = none) :
    pl.cue tb = .error .range := by
  unfold SubPlace.cue
  split
  next ha hz => rcases h with h | h
                · cases ha.symm.trans h
                · cases hz.symm.trans h
  · rfl

theorem SubPlace.cue_of_empty {pl : SubPlace} {tb : Timebase} {a z : Nat} (ha : tb.tick pl.startUnit = some a)
    (hz : tb.tick pl.endUnit = some z) (h : z ≤ a) : pl.cue tb = .error .range := by
  simp only [SubPlace.cue, ha, hz, h, if_true]

theorem testedSubCue_of_cue_error {b : SubTrack} {pl : SubPlace} {code : ResultCode} (h : pl.cue r.timebase = .error code) :
    testedSubCue pl r x b = .error code := by
  rw [testedSubCue, h]

/-- A cue that ends at or before the cut line is late (R39). -/
theorem testedSubCue_of_stop_le {b : SubTrack} {pl : SubPlace} {a z : Nat} (ha : r.timebase.tick pl.startUnit = some a)
    (hz : r.timebase.tick pl.endUnit = some z) (haz : a < z) (h : z ≤ r.cutLine) : testedSubCue pl r x b = .error .late := by
  simp only [testedSubCue, SubPlace.cue, ha, hz, Nat.not_le.mpr haz, if_false, SubCue.againstCutLine, h, if_true]

/-- A cue that starts in the span of a CONCEALING track is late (R41, R78). -/
theorem testedSubCue_of_in_span {b : SubTrack} {pl : SubPlace} {a z f e : Nat} (ha : r.timebase.tick pl.startUnit = some a)
    (hz : r.timebase.tick pl.endUnit = some z) (haz : a < z) (hcut : r.cutLine < z) (hx : x.state = .concealing)
    (hw : b.window = some ⟨f, some e, .span⟩) (hf : f ≤ max a r.cutLine) (he : max a r.cutLine < e) :
    testedSubCue pl r x b = .error .late := by
  have hwindow : ∀ cue : SubCue, cue.start = max a r.cutLine → cue.againstWindow ⟨f, some e, .span⟩ = .error .late := by
    intro cue hstart
    have hnot : ¬ max a r.cutLine < f := Nat.not_lt.mpr hf
    simp only [SubCue.againstWindow, hstart, hnot, hf, he, decide_false, Bool.false_and, Bool.false_eq_true, if_false, decide_true,
      Option.all_some, Bool.and_self, if_true]
  simp only [testedSubCue, SubPlace.cue, ha, hz, Nat.not_le.mpr haz, if_false, SubCue.againstCutLine, Nat.not_le.mpr hcut,
    Track.testWindow, hx, if_true, hw]
  by_cases hlt : a < r.cutLine
  · simp only [hlt, if_true]
    exact hwindow _ (max_eq_right hlt.le).symm
  · simp only [hlt, if_false]
    exact hwindow _ (max_eq_left (Nat.not_lt.mp hlt)).symm

theorem State.placeSub_of_emitted {b : SubTrack} {pl : SubPlace} {cue y : SubCue} (htested : testedSubCue pl r x b = .ok cue)
    (hfind : b.cues.find? (fun y => y.id == cue.id) = some y) (hemitted : y.emitted = true) :
    s.placeSub p r t x b pl = .error .late := by
  simp only [State.placeSub, htested, hfind, Option.any_some, hemitted, if_true]

theorem State.placeSub_of_full {b : SubTrack} {pl : SubPlace} {cue : SubCue} (htested : testedSubCue pl r x b = .ok cue)
    (hemitted : ∀ y ∈ b.cues, y.id = cue.id → y.emitted = false)
    (hroom : ¬ s.RoomFor b.cues.length cue.lines.length ((b.cues.find? fun y => y.id == cue.id).map fun y => y.lines.length)) :
    s.placeSub p r t x b pl = .error .full := by
  have hfull := Bool.eq_false_iff.mpr fun h => hroom ((State.roomForSub_iff s b _ cue).mp h)
  simp only [State.placeSub, htested, any_emitted_find? hemitted, hfull, Bool.not_false, Bool.false_eq_true, if_false, if_true]

/-- The cue of a description record whose ticks lie in the range (R36, R39). -/
def AdPlace.cueAt (pl : AdPlace) (a z : Nat) : AdCue := ⟨pl.id, a, z, pl.clip, pl.hold, pl.strict, pl.gn, pl.gd, .pending⟩

theorem AdPlace.cue_eq {pl : AdPlace} {tb : Timebase} {a z : Nat} (ha : tb.tick pl.earliestUnit = some a)
    (hz : tb.tick pl.latestUnit = some z) : pl.cue tb = .ok (pl.cueAt a z) := by
  simp only [AdPlace.cue, ha, hz, AdPlace.cueAt]

theorem AdPlace.cue_of_no_tick {pl : AdPlace} {tb : Timebase} (h : tb.tick pl.earliestUnit = none ∨ tb.tick pl.latestUnit = none) :
    pl.cue tb = .error .range := by
  unfold AdPlace.cue
  split
  next ha hz => rcases h with h | h
                · cases ha.symm.trans h
                · cases hz.symm.trans h
  · rfl

theorem AdTrack.isCurrent_iff (a : AdTrack) (id : Nat) : a.isCurrent id = true ↔ ∃ k, a.engine.current? = some k ∧ k.id = id := by
  simp only [AdTrack.isCurrent, Option.any_eq_true, beq_iff_eq]

theorem AdTrack.isCurrent_eq_false {a : AdTrack} {id : Nat} (h : ∀ k, a.engine.current? = some k → k.id ≠ id) :
    a.isCurrent id = false :=
  Bool.eq_false_iff.mpr fun hc => by
    obtain ⟨k, hk, hid⟩ := (a.isCurrent_iff id).mp hc
    exact h k hk hid

/-- A description cue with ticks [a, z] against the audio line, the current cue and the room of the store (R40, R42, R43). -/
theorem State.placeAd_eq {b : AdTrack} {pl : AdPlace} {a z : Nat} (ha : r.timebase.tick pl.earliestUnit = some a)
    (hz : r.timebase.tick pl.latestUnit = some z) : s.placeAd p r t b pl =
      if z < r.audioLine then .error .late
      else if b.isCurrent pl.id then .error .late
      else if !s.roomForAd b (b.cues.find? fun y => y.id == pl.id) then .error .full
      else .ok ((s.modAd t fun b => b.insert (pl.cueAt a z)).countIn p fun k => { k with cuesAccepted := bump32 k.cuesAccepted 1 }) := by
  rw [State.placeAd, AdPlace.cue_eq ha hz]
  simp only [AdCue.againstAudioLine, AdPlace.cueAt]
  by_cases hlate : z < r.audioLine <;> simp only [hlate, if_true, if_false]

end

/-- Settles O19. -/
theorem placeThatComesLateIsPosted : Obligations.PlaceThatComesLateIsPosted := by
  unfold Obligations.PlaceThatComesLateIsPosted
  intro s c rec rest r t x hat hfits hop fails
  refine ⟨fun b hb => ⟨fun hrange => ?noPlace, fun pl hpl => ?place⟩, fun b hb => ⟨fun hrange => ?noAdPlace, fun pl hpl => ?adPlace⟩⟩
  case noPlace => exact hat.exec_place_of_error hop (hfits.applyPlace_sub_none hb (subPlaceOf_eq_none hrange))
  case noAdPlace => exact hat.exec_place_of_error hop (hfits.applyPlace_ad_none hb (adPlaceOf_eq_none hrange))
  case place =>
    have hfails : ∀ code, s.placeSub c.prog r t x b pl = .error code → fails code := fun code he =>
      hat.exec_place_of_error hop ((hfits.applyPlace_sub hb hpl).trans he)
    refine ⟨fun htick => ?noTick, fun a z ha hz => ⟨fun hza => ?empty, fun haz => ?late, fun haz hcut hadmits hemitted hroom => ?full⟩⟩
    case noTick => exact hfails _ (State.placeSub_of_error (testedSubCue_of_cue_error (SubPlace.cue_of_no_tick htick)))
    case empty => exact hfails _ (State.placeSub_of_error (testedSubCue_of_cue_error (SubPlace.cue_of_empty ha hz hza)))
    case late =>
      rintro (hcut | ⟨hx, hcut, f, e, hw, hf, he⟩ | ⟨hcut, ⟨stop, hadmits⟩, y, hfind, hemitted⟩)
      · exact hfails _ (State.placeSub_of_error (testedSubCue_of_stop_le ha hz haz hcut))
      · exact hfails _ (State.placeSub_of_error (testedSubCue_of_in_span ha hz haz hcut hx hw hf he))
      · exact hfails _ (State.placeSub_of_emitted (hadmits.testedSubCue ha hz haz hcut) hfind hemitted)
    case full =>
      obtain ⟨stop, hadmits⟩ := hadmits
      exact hfails _ (State.placeSub_of_full (hadmits.testedSubCue ha hz haz hcut) hemitted hroom)
  case adPlace =>
    have hfails : ∀ code, s.placeAd c.prog r t b pl = .error code → fails code := fun code he =>
      hat.exec_place_of_error hop ((hfits.applyPlace_ad hb hpl).trans he)
    refine ⟨fun htick => ?noAdTick, fun a z ha hz => ⟨fun hlate => ?adLate, fun hline hcurrent hroom => ?adFull⟩⟩
    case noAdTick => exact hfails _ (by rw [State.placeAd, AdPlace.cue_of_no_tick htick])
    case adLate =>
      refine hfails _ ?_
      rw [State.placeAd_eq ha hz]
      rcases hlate with hlate | hcurrent
      · rw [if_pos hlate]
      · rw [(b.isCurrent_iff pl.id).mpr hcurrent, if_pos rfl, ite_self]
    case adFull =>
      refine hfails _ ?_
      have hfull := Bool.eq_false_iff.mpr fun h => hroom ((State.roomForAd_iff s b _).mp h)
      rw [State.placeAd_eq ha hz, if_neg (Nat.not_lt.mpr hline), AdTrack.isCurrent_eq_false hcurrent, hfull]
      rfl

/-- Settles O20: the cue starts at or after F, so it is not trimmed to F, and X is lowered to its start. -/
theorem placeResolvesTheWindowItResumes : Obligations.PlaceResolvesTheWindowItResumes := by
  unfold Obligations.PlaceResolvesTheWindowItResumes
  intro s c rec rest r t x b pl a z f e hat hfits hop hb hx hw hf hpl ha hz haz hcut hemitted hroom lowered cue b' counted
  have hadmits : x.Admits b (max a r.cutLine) z z := .inr ⟨hx, f, e, .untilResume, hw, .inr ⟨hf, rfl, .inl rfl⟩⟩
  have htested : testedSubCue pl r x b = .ok cue := by
    rw [hadmits.testedSubCue ha hz haz hcut, decide_eq_false (Nat.lt_irrefl z), Bool.or_false]
  have hplaced := State.placeSub_of_room (p := c.prog) hat.prog hfits.track hb htested hemitted hroom
  have htest : x.testWindow b = some ⟨f, e, .untilResume⟩ := by rw [Track.testWindow, if_pos hx, hw]
  have hlowered : (⟨f, e, .untilResume⟩ : Window).lowered cue.start = ⟨f, some lowered, .untilResume⟩ := Window.lowered_of_le hf
  have hcounted : { r with counters := { r.counters with
      cuesAccepted := min 4294967295 (r.counters.cuesAccepted + 1)
      cuesTrimmed := if cue.trimmed = true then min 4294967295 (r.counters.cuesTrimmed + 1) else r.counters.cuesTrimmed } } = counted := by
    simp only [cue, counted, decide_eq_true_eq]
  have happly : s.applyPlace c r rec = s.placeSub c.prog r t x b pl := hfits.applyPlace_sub hb hpl
  have hreached : (⟨f, some lowered, .untilResume⟩ : Window).reached r.cutLine = decide (lowered ≤ r.cutLine) := rfl
  rw [hcounted] at hplaced
  simp only [State.resolveWindow, htest, hlowered, hreached, true_and, decide_eq_true_eq] at hplaced
  rw [State.modSub_of_sub (x := { x with body := .sub (b.insert cue) }) (b := b.insert cue) (by simp) rfl, State.setTrack_setProg,
    State.setTrack_setTrack] at hplaced
  refine ⟨fun hopen => hat.exec_place_of_ok hop (happly.trans ?_), fun hend => hat.exec_place_of_ok hop (happly.trans ?_)⟩
  · rw [hplaced, if_neg (Nat.not_le.mpr hopen)]
    rfl
  · rw [hplaced, if_pos hend, State.completeConceal, State.modTrack_of_some (x := { x with body := .sub b' }) (by simp; rfl),
      State.setTrack_setProg, State.setTrack_setTrack, State.raiseConcealDone, State.setProg_modProg]
    rfl

theorem adPlaceOf_of_inRange {rec : List Byte} (hlen : rec.length = 26) (hclip : fieldAt rec 16 4 ≠ 0) (hlow : 1 ≤ (byteAt rec 20).toNat)
    (hhigh : (byteAt rec 20).toNat ≤ 64) (htimes : fieldAt rec 8 4 ≤ fieldAt rec 12 4) : adPlaceOf rec = some {
      id := fieldAt rec 4 4
      earliestUnit := fieldAt rec 8 4
      latestUnit := fieldAt rec 12 4
      clip := fieldAt rec 16 4
      hold := (byteAt rec 20).toNat
      strict := (byteAt rec 21).getLsbD 0
      gn := if (byteAt rec 21).getLsbD 1 = true then some (min (fieldAt rec 22 2) 32768) else none
      gd := if (byteAt rec 21).getLsbD 2 = true then some (min (fieldAt rec 24 2) 32768) else none } := by
  refine if_pos ?_
  simp only [Bool.and_eq_true, decide_eq_true_eq, beq_iff_eq, bne_iff_ne]
  exact ⟨⟨⟨⟨hlen, hclip⟩, by omega⟩, hhigh⟩, htimes⟩

/-- Settles O21. -/
theorem placeInsertsADescriptionCue : Obligations.PlaceInsertsADescriptionCue := by
  unfold Obligations.PlaceInsertsADescriptionCue
  refine ⟨fun rec hlen hclip hlow hhigh htimes => adPlaceOf_of_inRange hlen hclip hlow hhigh htimes, AdCue.before_iff,
    fun x cues => insertBy_split _ x cues, ?_⟩
  intro s c rec rest r t x b pl a z hat hfits hop hb hpl ha hz hline hcurrent hroom cue cues
  have happly : s.applyPlace c r rec = s.placeAd c.prog r t b pl := hfits.applyPlace_ad hb hpl
  have hprog : (s.setTrack t (some { x with body := .ad (b.insert cue) })).prog c.prog = some r := hat.prog
  refine hat.exec_place_of_ok hop (happly.trans ?_)
  rw [State.placeAd_eq ha hz, if_neg (Nat.not_lt.mpr hline), AdTrack.isCurrent_eq_false hcurrent, (State.roomForAd_iff s b _).mpr hroom,
    State.modAd_of_ad hfits.track hb]
  exact congrArg Except.ok (State.countIn_of_some hprog _)

end Sys2Proof.Machine
end

section
/-! PROOF. WITHDRAW and records of other ops, narration pages, marks that are not cut, and the placing of SUBSEG parcels. -/

namespace Sys2Proof.Machine

/-! ### WITHDRAW and records that name no track -/

section
variable {s : State} {c : CueLoading} {rec : List Byte} {rest : List (List Byte)} {r : Programme} {t : TrackSlot} {x : Track}

theorem RecordFits.applyWithdraw_of_length (h : RecordFits s c rec t x) (hlen : rec.length ≠ 8) :
    s.applyWithdraw c r rec = .error .range := by
  rw [State.applyWithdraw, h.recordTrack]
  exact if_pos hlen

/-- A WITHDRAW of no subtitle cue (R45). -/
theorem RecordFits.applyWithdraw_sub_none (h : RecordFits s c rec t x) (hlen : rec.length = 8) {b : SubTrack} (hb : x.body = .sub b)
    (hnone : (b.cues.find? fun y => y.id == recordId rec) = none) : s.applyWithdraw c r rec = .error .absent := by
  rw [State.applyWithdraw, h.recordTrack]
  simp only [hlen, hb, hnone, ne_eq, not_true, if_false]

/-- A WITHDRAW of a subtitle cue, which removes it unless it is emitted (R45). -/
theorem RecordFits.applyWithdraw_sub_some (h : RecordFits s c rec t x) (hlen : rec.length = 8) {b : SubTrack} (hb : x.body = .sub b)
    {y : SubCue} (hy : (b.cues.find? fun y => y.id == recordId rec) = some y) : s.applyWithdraw c r rec =
      if y.emitted = true then .error .late else .ok (s.setTrack t (some { x with
        body := .sub { b with cues := b.cues.filter fun y => y.id != recordId rec } })) := by
  rw [State.applyWithdraw, h.recordTrack]
  simp only [hlen, hb, hy, ne_eq, not_true, if_false, State.modSub_of_sub h.track hb]

/-- A WITHDRAW of a description cue, by the current cue and the list (R45). -/
theorem RecordFits.applyWithdraw_ad (h : RecordFits s c rec t x) (hlen : rec.length = 8) {b : AdTrack} (hb : x.body = .ad b) :
    s.applyWithdraw c r rec = if b.isCurrent (recordId rec) = true then .error .late
      else if (b.cues.any fun y => y.id == recordId rec) = true then .ok (s.setTrack t (some { x with
        body := .ad { b with cues := b.cues.filter fun y => y.id != recordId rec } }))
      else .error .absent := by
  rw [State.applyWithdraw, h.recordTrack]
  simp only [hlen, hb, ne_eq, not_true, if_false, State.modAd_of_ad h.track hb]

theorem find?_id_eq_none {α : Type} {key : α → Nat} {l : List α} {id : Nat} (h : ∀ y ∈ l, key y ≠ id) :
    (l.find? fun y => key y == id) = none :=
  List.find?_eq_none.mpr fun y hy => by simpa using h y hy

/-- A command that reaches records of its own ops. -/
def ReachesRecord (cmd : Instr) (op : Nat) : Prop :=
  (cmd = .place ∧ op = 1) ∨ (cmd = .withdraw ∧ op = 2) ∨ (cmd = .cueRecordOtherOp ∧ op ≠ 1 ∧ op ≠ 2)

/-- Such a command applies the record or fails it; a record whose track is refused fails with the refusal's code. -/
theorem ReachesRecord.exec {cmd : Instr} (h : ReachesRecord cmd (recordOp rec)) : ∃ op apply,
    exec cmd s = .next (s.reachRecord op apply) ∧ op (recordOp rec) = true ∧
      ∀ code, s.recordTrack c rec = .error code → apply s c r rec = .error code := by
  rcases h with ⟨rfl, hop⟩ | ⟨rfl, hop⟩ | ⟨rfl, hplace, hwithdraw⟩
  · exact ⟨_, State.applyPlace, rfl, by rw [hop]; rfl, fun code he => by rw [State.applyPlace, he]⟩
  · exact ⟨_, State.applyWithdraw, rfl, by rw [hop]; rfl, fun code he => by rw [State.applyWithdraw, he]⟩
  · exact ⟨_, State.applyOther, rfl, by simp [hplace, hwithdraw], fun code he => by rw [State.applyOther, he]⟩

/-- A record whose track is refused fails, whatever its op (R38). -/
theorem AtRecord.exec_of_recordTrack_error (h : AtRecord s c rec rest r) {cmd : Instr} (hcmd : ReachesRecord cmd (recordOp rec))
    {code : ResultCode} (he : s.recordTrack c rec = .error code) :
    Machine.exec cmd s = .next (s.recordFailed c rest r (recordId rec) code) := by
  obtain ⟨op, apply, hexec, hop, happly⟩ := hcmd.exec (s := s) (c := c) (r := r)
  rw [hexec, h.reachRecord op hop, happly code he]
  exact congrArg _ (h.failRecord code)

/-- A record reached in HALTED ends its parcel with one failure, whatever its op (R32). -/
theorem exec_of_record_halted {cmd : Instr} (hcmd : ReachesRecord cmd (recordOp rec)) (hl : s.loading = some (.cueload c))
    (hrecords : c.records = rec :: rest) (hp : s.prog c.prog = some r) (hr : r.state = .halted) :
    Machine.exec cmd s = .next { s.setProg c.prog (some (r.post ⟨.halted, .cueload, none, none, c.ordinal⟩)) with loading := none } := by
  obtain ⟨op, apply, hexec, hop, -⟩ := hcmd.exec (s := s) (c := c) (r := r)
  have hprog : ({ s with loading := none } : State).prog c.prog = some r := hp
  rw [hexec]
  simp only [State.reachRecord, hl, hrecords, hop, hp, hr, Bool.not_true, Bool.false_eq_true, if_false, if_true]
  exact congrArg _ (State.post_of_some hprog _)

theorem recordTrack_of_absent (h : 63 < c.track ∨ ∃ t : TrackSlot, c.track = t.val ∧
    (s.track t = none ∨ ∃ x, s.track t = some x ∧ (x.prog ≠ c.prog ∨ x.state = .closing))) :
    s.recordTrack c rec = .error .absent := by
  rw [State.recordTrack]
  rcases h with h | ⟨t, hn, ht | ⟨x, ht, hx⟩⟩
  · rw [State.trackOf_of_large h]
  · rw [State.trackOf_of_free hn ht]
  · by_cases hprog : x.prog = c.prog
    · rw [State.trackOf_of_track hn ht hprog]
      exact if_pos (hx.resolve_left (not_not_intro hprog))
    · rw [State.trackOf_of_other hn ht hprog]

theorem recordTrack_of_range (hn : c.track = t.val) (ht : s.track t = some x) (hprog : x.prog = c.prog) (hx : x.state ≠ .closing)
    (h : recordKind rec ≠ x.body.kindNumber ∨ recordId rec = 0) : s.recordTrack c rec = .error .range := by
  rw [State.recordTrack, State.trackOf_of_track hn ht hprog]
  dsimp only
  rw [if_neg hx]
  by_cases hkind : recordKind rec = x.body.kindNumber
  · rw [if_neg (not_not_intro hkind), if_pos (h.resolve_left (not_not_intro hkind))]
  · rw [if_pos hkind]

end

/-- Settles O22. -/
theorem withdrawRemovesACueAndOtherOpsFail : Obligations.WithdrawRemovesACueAndOtherOpsFail := by
  unfold Obligations.WithdrawRemovesACueAndOtherOpsFail
  refine ⟨?withdraw, ?other, ?anyOp⟩
  case withdraw =>
    intro s c rec rest r t x hat hfits hop id
    refine ⟨fun hlen => hat.exec_withdraw_of_error hop (hfits.applyWithdraw_of_length hlen), fun b hb hlen => ?sub, fun b hb hlen => ?ad⟩
    case sub =>
      refine ⟨fun y hy hemitted => ?_, fun y hy hemitted => ?_, fun hnone => ?_⟩
      · exact hat.exec_withdraw_of_ok hop ((hfits.applyWithdraw_sub_some hlen hb hy).trans
          (if_neg (by rw [hemitted]; exact Bool.false_ne_true)))
      · exact hat.exec_withdraw_of_error hop ((hfits.applyWithdraw_sub_some hlen hb hy).trans (if_pos hemitted))
      · exact hat.exec_withdraw_of_error hop (hfits.applyWithdraw_sub_none hlen hb (find?_id_eq_none (key := SubCue.id) hnone))
    case ad =>
      have happly := hfits.applyWithdraw_ad (r := r) hlen hb
      refine ⟨fun hcurrent ⟨y, hy, hid⟩ => ?_, fun k hk hid => ?_, fun hcurrent hnone => ?_⟩
      · rw [AdTrack.isCurrent_eq_false hcurrent, List.any_eq_true.mpr ⟨y, hy, by simpa using hid⟩] at happly
        exact hat.exec_withdraw_of_ok hop happly
      · rw [(b.isCurrent_iff _).mpr ⟨k, hk, hid⟩] at happly
        exact hat.exec_withdraw_of_error hop happly
      · have hany : (b.cues.any fun y => y.id == recordId rec) = false := List.any_eq_false.mpr fun y hy => by simpa using hnone y hy
        rw [AdTrack.isCurrent_eq_false hcurrent, hany] at happly
        exact hat.exec_withdraw_of_error hop happly
  case other =>
    intro s c rec rest r hat hplace hwithdraw t x hfits
    exact hat.exec_other_of_error hplace hwithdraw (by rw [State.applyOther, hfits.recordTrack])
  case anyOp =>
    intro s cmd c rec rest r hl hrecords hp hcmd
    refine ⟨exec_of_record_halted hcmd hl hrecords hp, fun hr habsent => ?_, fun hr t x hn ht hprog hx hrange => ?_⟩
    · exact AtRecord.exec_of_recordTrack_error ⟨hl, hrecords, hp, hr⟩ hcmd (recordTrack_of_absent habsent)
    · exact AtRecord.exec_of_recordTrack_error ⟨hl, hrecords, hp, hr⟩ hcmd (recordTrack_of_range hn ht hprog hx hrange)

/-! ### Narration pages -/

/-- The first test of a page (R88). -/
theorem PageLoad.inRange_iff (g : PageLoad) : g.inRange = true ↔ g.clip ≠ 0 ∧ g.declared ≠ 0 ∧ g.declared ≤ 3000 ∧
    g.index < g.declared ∧ g.valid ≠ 0 ∧ g.valid ≤ 480 ∧ (g.index + 1 = g.declared ∨ g.valid = 480) := by
  simp only [PageLoad.inRange, Bool.and_eq_true, Bool.or_eq_true, decide_eq_true_eq, bne_iff_ne, beq_iff_eq, and_assoc]
  exact Iff.rfl

theorem PageLoad.inRange_eq_false {g : PageLoad} (h : g.clip = 0 ∨ g.declared = 0 ∨ 3000 < g.declared ∨ g.declared ≤ g.index ∨
    g.valid = 0 ∨ 480 < g.valid ∨ (g.index + 1 ≠ g.declared ∧ g.valid ≠ 480)) : g.inRange = false := by
  refine Bool.eq_false_iff.mpr fun hall => ?_
  have := g.inRange_iff.mp hall
  omega

theorem State.playing_iff (s : State) (p : ProgSlot) (id : Nat) : s.playing p id = true ↔
    ∃ t x a n k, s.track t = some x ∧ x.prog = p ∧ x.body = .ad a ∧ a.engine = .play n k ∧ k.clip = id := by
  simp only [State.playing, List.any_eq_true, trackSlots, List.mem_finRange, true_and, Option.any_eq_true, Bool.and_eq_true, beq_iff_eq,
    Track.ad?_eq_some]
  constructor
  · rintro ⟨t, x, ht, hx, a, ha, hengine⟩
    cases he : a.engine with
    | play n k => rw [he] at hengine; exact ⟨t, x, a, n, k, ht, hx, ha, he, by simpa using hengine⟩
    | idle => rw [he] at hengine; cases hengine
    | attack n k => rw [he] at hengine; cases hengine
    | release n k => rw [he] at hengine; cases hengine
  · rintro ⟨t, x, a, n, k, ht, hx, ha, he, hid⟩
    exact ⟨t, x, ht, hx, a, ha, by rw [he]; simpa using hid⟩

section
variable {s : State} {q : Parcel} {o : BitVec 32} {r : Programme}

/-- A page of a programme that is not HALTED is tested and stored, or refused (R87). -/
theorem exec_narrationPage_of_not_halted (hl : s.loading = some (.narration q o)) (hp : s.prog q.slot = some r) (hr : r.state ≠ .halted) :
    exec .narrationPage s = .next (({ s with loading := none } : State).applyPage q.slot (pageOf q.body) o) := by
  change execNarrationPage s = _
  have hprog : ({ s with loading := none } : State).prog q.slot = some r := hp
  simp only [execNarrationPage, hl, hprog]
  cases hs : r.state with
  | halted => exact absurd hs hr
  | active => rfl
  | draining => rfl
  | closing => rfl

theorem exec_narrationPage_of_refused (hl : s.loading = some (.narration q o)) (hp : s.prog q.slot = some r) (hr : r.state ≠ .halted)
    {code : ResultCode} (h : s.pageRefusal q.slot (pageOf q.body) = some code) : exec .narrationPage s = .next { s.setProg q.slot
      (some (r.post ⟨code, .narration, none, some (pageOf q.body).clip, o⟩)) with loading := none } := by
  have hprog : ({ s with loading := none } : State).prog q.slot = some r := hp
  have hrefusal : ({ s with loading := none } : State).pageRefusal q.slot (pageOf q.body) = some code := h
  rw [exec_narrationPage_of_not_halted hl hp hr, State.applyPage, hrefusal]
  exact congrArg _ (State.post_of_some hprog _)

theorem exec_narrationPage_of_stored (hl : s.loading = some (.narration q o)) (hp : s.prog q.slot = some r) (hr : r.state ≠ .halted)
    (h : s.pageRefusal q.slot (pageOf q.body) = none) :
    exec .narrationPage s = .next (({ s with loading := none } : State).storePage q.slot (pageOf q.body)) := by
  have hrefusal : ({ s with loading := none } : State).pageRefusal q.slot (pageOf q.body) = none := h
  rw [exec_narrationPage_of_not_halted hl hp hr, State.applyPage, hrefusal]

/-- The tests of a page of a clip that has a record (R88). -/
theorem State.pageRefusal_of_clip {p : ProgSlot} {g : PageLoad} {k : Clip} (hrange : g.inRange = true) (hk : s.clip? p g.clip = some k) :
    s.pageRefusal p g = if k.declared ≠ g.declared then some .range else if s.playing p g.clip = true then some .late
      else if k.present g.index = false ∧ 16384 ≤ s.pagesInUse then some .full else none := by
  have hfull : (!k.present g.index && s.freePages == 0) = true ↔ k.present g.index = false ∧ 16384 ≤ s.pagesInUse := by
    rw [Bool.and_eq_true, Bool.not_eq_true', beq_iff_eq, State.freePages, Config.narrationPages, Nat.sub_eq_zero_iff_le]
  simp only [State.pageRefusal, hrange, hk, Bool.not_true, Bool.false_eq_true, if_false, if_congr hfull rfl rfl]

/-- The tests of a clip's first page (R88). -/
theorem State.pageRefusal_of_new {p : ProgSlot} {g : PageLoad} (hrange : g.inRange = true) (hk : s.clip? p g.clip = none) :
    s.pageRefusal p g = if 512 ≤ s.clips.length ∨ 16384 ≤ s.pagesInUse then some .full else none := by
  have hclips : (s.freeClips == 0) = true ↔ 512 ≤ s.clips.length := by
    rw [beq_iff_eq, State.freeClips, Config.clipRecords, Nat.sub_eq_zero_iff_le]
  have hpages : (s.freePages == 0) = true ↔ 16384 ≤ s.pagesInUse := by
    rw [beq_iff_eq, State.freePages, Config.narrationPages, Nat.sub_eq_zero_iff_le]
  simp only [State.pageRefusal, hrange, hk, Bool.not_true, Bool.false_eq_true, if_false, if_congr hclips rfl rfl, if_congr hpages rfl rfl]
  by_cases h : 512 ≤ s.clips.length <;> simp [h]

end

/-- Settles O23. -/
theorem narrationPageIsStoredOrRefused : Obligations.NarrationPageIsStoredOrRefused := by
  unfold Obligations.NarrationPageIsStoredOrRefused
  refine ⟨fun body hlen => ?fields, State.playing_iff, fun s q o r hl hp hr => ?halted, fun s q o r hl hp hr => ?page⟩
  case fields =>
    obtain ⟨hcount, -, hsamples⟩ := samplesOf_spec 480 (body.drop 10) (by rw [List.length_drop, hlen])
    refine ⟨rfl, rfl, rfl, rfl, hcount, fun i hi => ?_⟩
    rw [show 11 + 2 * i = 10 + (2 * i + 1) by omega, ← byteAt_drop, ← byteAt_drop]
    exact hsamples i hi
  case halted =>
    have hprog : ({ s with loading := none } : State).prog q.slot = some r := hp
    change execNarrationPage s = _
    simp only [execNarrationPage, hl, hprog, hr]
    exact congrArg _ (State.post_of_some hprog _)
  case page =>
    intro g valid refused
    have hrefused : ∀ code, s.pageRefusal q.slot g = some code → refused code := fun code => exec_narrationPage_of_refused hl hp hr
    refine ⟨fun hrange => hrefused _ (if_pos (by rw [PageLoad.inRange_eq_false hrange]; rfl)),
      fun hclip hlow hhigh hindex hvalid hvalid' hlast => ?_⟩
    have hrange := g.inRange_iff.mpr ⟨hclip, by omega, hhigh, hindex, by omega, hvalid', hlast⟩
    refine ⟨fun k hk hdeclared => ?_, fun hk hfull => ?_, fun k hk hdeclared hplaying habsent hpages => ?_, fun hk hclips hpages => ?_,
      fun k hk hdeclared hplaying hroom => ?_, fun k hk hdeclared hplaying => ?_⟩
    · exact hrefused _ (by rw [State.pageRefusal_of_clip hrange hk, if_pos hdeclared])
    · exact hrefused _ (by rw [State.pageRefusal_of_new hrange hk, if_pos hfull])
    · refine hrefused _ ?_
      rw [State.pageRefusal_of_clip hrange hk, if_neg (not_not_intro hdeclared), hplaying, if_neg Bool.false_ne_true,
        if_pos ⟨habsent, hpages⟩]
    · have hfree : ({ s with loading := none } : State).clip? q.slot g.clip = none := hk
      rw [exec_narrationPage_of_stored hl hp hr (by rw [State.pageRefusal_of_new hrange hk, if_neg (by omega)]), State.storePage, hfree]
      rfl
    · have hclipAt : ({ s with loading := none } : State).clip? q.slot g.clip = some k := hk
      have hpasses : s.pageRefusal q.slot g = none := by
        rw [State.pageRefusal_of_clip hrange hk, if_neg (not_not_intro hdeclared), hplaying, if_neg Bool.false_ne_true, if_neg]
        rintro ⟨habsent, hpages⟩
        rcases hroom with hpresent | hroom
        · exact Bool.false_ne_true (habsent.symm.trans hpresent)
        · omega
      have hmap : (fun c : Clip => if c.isOf q.slot g.clip then c.store g else c) = fun k => if k.prog = q.slot ∧ k.id = g.clip then
          { k with pages := k.pages.set g.index (some g.samples), lastValid := valid k.lastValid } else k := by
        funext c
        exact if_congr (by simp [Clip.isOf]) rfl rfl
      rw [exec_narrationPage_of_stored hl hp hr hpasses, State.storePage, hclipAt, ← hmap]
    · refine hrefused _ ?_
      rw [State.pageRefusal_of_clip hrange hk, if_neg (not_not_intro hdeclared), hplaying, if_pos rfl]

/-! ### Marks that are not cut -/

theorem Mark.passes_iff (m : Mark) (r : Programme) : m.passes r = true ↔ m.s ≤ maxTick ∧ m.e ≤ maxTick ∧ m.s < m.e ∧
    m.e - m.s ≤ 5400000 ∧ (∀ k, r.lastSegment = some k → k < m.k) ∧ r.cutLine ≤ m.s := by
  simp only [Mark.passes, Bool.and_eq_true, decide_eq_true_eq, Option.all_eq_true, and_assoc]

/-- Settles O24. -/
theorem markThatIsNotCut : Obligations.MarkThatIsNotCut := by
  unfold Obligations.MarkThatIsNotCut
  intro s m rest hq taken
  change (s.prog m.prog = none → execMarkTaken s = _) ∧ ∀ r, s.prog m.prog = some r → (_ → execMarkTaken s = _) ∧
    (_ → _ → execMarkTaken s = _) ∧ (_ → _ → execMarkTaken s = _) ∧ (_ → _ → _ → execMarkTaken s = _) ∧
    (_ → _ → _ → _ → execMarkTaken s = _)
  unfold execMarkTaken
  rw [hq]
  refine ⟨fun hp => ?_, fun r hp => ⟨fun hstream => ?_, fun hstream hr => ?_, fun hstream hr => ?_, fun hstream hr hfull => ?_,
    fun hstream hr hroom hrange => ?_⟩⟩
  · simp only [hp]
    rfl
  · simp only [hp, ne_eq, hstream, not_false_iff, if_true]
    rfl
  · simp only [hp, hstream, ne_eq, not_true, if_false, hr]
    rfl
  · rcases hr with hr | hr <;> (simp only [hp, hstream, ne_eq, not_true, if_false, hr]; rfl)
  · simp only [hp, hstream, ne_eq, not_true, if_false, hr, Config.cutBuffers, Nat.not_lt.mpr hfull]
  · have hrefused : m.passes r = false := Bool.eq_false_iff.mpr fun hpasses => by
      obtain ⟨hs, he, hlt, hlen, hk, hcut⟩ := (m.passes_iff r).mp hpasses
      rcases hrange with h | h | h | h | ⟨k, hlast, h⟩ | h
      · exact Nat.not_le.mpr h hs
      · exact Nat.not_le.mpr h he
      · exact Nat.not_le.mpr hlt h
      · exact Nat.not_le.mpr h hlen
      · exact Nat.not_lt.mpr h (hk k hlast)
      · exact Nat.not_le.mpr h hcut
    have hprog : taken.prog m.prog = some r := hp
    simp only [hp, hstream, ne_eq, not_true, if_false, hr, Config.cutBuffers, hroom, if_true, State.judgeMark, hrefused,
      Bool.false_eq_true]
    exact congrArg _ (State.post_of_some hprog _)

/-! ### Placing SUBSEG parcels -/

theorem SubSeg.flagsNumber_eq (u : SubSeg) : u.flagsNumber = u.styleLoaded.toNat + 2 * u.concealedGap.toNat + 4 * u.overflow.toNat := by
  simp only [SubSeg.flagsNumber, flagByte]
  ring

theorem subsegParcel_bytes (unit : BitVec 4) (p : ProgSlot) (u : SubSeg) :
    (subsegParcel unit p u).bytes = laneBytes 0x06 unit p u.stream u.body := makeParcel_bytes ..

/-- Settles O27. -/
theorem subsegIsPlacedInTrackOrder : Obligations.SubsegIsPlacedInTrackOrder := by
  unfold Obligations.SubsegIsPlacedInTrackOrder
  refine ⟨fun unit p u => ?_, fun s p u left rest hcuts => ?_⟩
  · intro entry
    have hentry : Entry.bytes = entry := funext Entry.bytes_eq
    rw [subsegParcel_bytes, SubSeg.body, SubSeg.flagsNumber_eq, tagBytes, hentry]
    simp only [List.append_assoc]
  · have hafter : cutsAfter p left rest = if left = [] then rest else ⟨p, left⟩ :: rest := by cases left <;> rfl
    change (_ → execSubsegPlaced s = _) ∧ (_ → execSubsegPlaced s = _)
    unfold execSubsegPlaced
    rw [hcuts]
    refine ⟨fun hroom => ?_, fun hfull => ?_⟩
    · simp only [Config.segQueue, hroom, if_true, hafter]
    · simp only [Config.segQueue, Nat.not_lt.mpr hfull, if_false]

end Sys2Proof.Machine
end

section
/-! PROOF. The audio path: taking a copy, ramps, the clamp, mixed renderings and their placing. -/

namespace Sys2Proof.Machine

/-! ### Taking a copy -/

/-- A copy at its taking: a carried tick out of range makes it substituted (R101). -/
theorem AudioCopy.taken_eq (c : AudioCopy) :
    c.taken = { c with substituted := c.substituted || decide (maxTick < c.carriedTick) } := by
  unfold AudioCopy.taken
  by_cases h : maxTick < c.carriedTick
  · rw [if_pos h, decide_eq_true h, Bool.or_true]
  · rw [if_neg h, decide_eq_false h, Bool.or_false]

/-- The parcel tick of a taken copy (R101). -/
theorem AudioCopy.taken_tick (c : AudioCopy) (line : Nat) : c.taken.tick line =
    if (c.substituted || decide (maxTick < c.carriedTick)) = true then
      (if line + 900 ≤ maxTick then line + 900 else line) else c.carriedTick := by
  rw [c.taken_eq]
  rfl

/-- The runs and counters after a verdict, by the number of quiet thirds (R102). -/
theorem Programme.judged_verdictOf (r : Programme) {n : Nat} (hn : n ≤ 3) : r.judged (verdictOf n) = { r with
    quietRun := if 2 ≤ n then min 255 (r.quietRun + 1) else 0
    strictRun := if n = 3 then min 255 (r.strictRun + 1) else 0
    counters := { r.counters with
      quietParcels := if n = 3 then min 4294967295 (r.counters.quietParcels + 1) else r.counters.quietParcels
      marginalParcels := if n = 2 then min 4294967295 (r.counters.marginalParcels + 1) else r.counters.marginalParcels } } := by
  have hcases : n = 0 ∨ n = 1 ∨ n = 2 ∨ n = 3 := by omega
  rcases hcases with rfl | rfl | rfl | rfl <;> rfl

/-- The verdict of a taken copy; a substituted one has no quiet third (R102). -/
theorem AudioCopy.taken_verdict (c : AudioCopy) (threshold : Nat) : c.taken.verdict threshold =
    verdictOf (if (c.substituted || decide (maxTick < c.carriedTick)) = true then 0 else quietThirds threshold c.samples) := by
  rw [c.taken_eq]
  unfold AudioCopy.verdict
  dsimp only
  split
  · rfl
  · rfl

theorem quietThirds_le (threshold : Nat) (xs : List Sample) : quietThirds threshold xs ≤ 3 := List.countP_le_length

/-- With no current parcel a taken copy becomes it if it serves a track (R98, R99). -/
theorem State.makeCurrent_eq {s : State} (haudio : s.audio = none) (r : Programme) (c : AudioCopy) :
    s.makeCurrent r c = { s with
      audio := if s.servedTracks r.tracks = [] then none else some {
        copy := c
        tick := c.tick r.audioLine
        takenIn := r.state
        served := s.servedTracks r.tracks
        toRender := s.servedTracks r.tracks
        toStep := if r.state = .active then s.servedTracks r.tracks else []
        rendered := none
        inFlight := false } } := by
  unfold State.makeCurrent
  dsimp only
  by_cases h : s.servedTracks r.tracks = []
  · rw [if_pos (List.isEmpty_iff.mpr h), if_pos h, ← haudio]
  · rw [if_neg fun he => h (List.isEmpty_iff.mp he), if_neg h]

/-- What becomes of the part when the copy `c` has been taken from its queue, by the state of its programme (R98). -/
def State.takeCopy (s : State) (c : AudioCopy) : State :=
  match s.prog c.prog with
  | none => s.countDropped
  | some r =>
    if r.stream ≠ c.stream then s.countDropped
    else
      match r.state with
      | .closing => s.countDrainDiscard
      | .draining => s.makeCurrent r c.taken
      | .halted => (s.modProg c.prog (·.hear c.taken)).makeCurrent r c.taken
      | .active => (s.modProg c.prog (·.hear c.taken)).makeCurrent r c.taken

theorem exec_audioTake_of_head {s : State} {c : AudioCopy} {rest : List AudioCopy} (haudio : s.audio = none) (hq : s.audioQ = c :: rest) :
    exec .audioTake s = .next (({ s with audioQ := rest } : State).takeCopy c) := by
  change execAudioTake s = _
  unfold execAudioTake
  split
  next h => cases haudio.symm.trans h
  next =>
    split
    next h => cases hq.symm.trans h
    next h =>
      cases hq.symm.trans h
      dsimp only
      generalize ({ s with audioQ := rest } : State) = s'
      unfold State.takeCopy
      cases s'.prog c.prog with
      | none => rfl
      | some r =>
        dsimp only
        split
        · rfl
        · cases r.state <;> rfl

/-- Settles O28. -/
theorem audioTakeMovesTheLineAndJudges : Obligations.AudioTakeMovesTheLineAndJudges := by
  unfold Obligations.AudioTakeMovesTheLineAndJudges
  refine ⟨fun s c rest r haudio hq hp hstream hstate => ?heard, fun s c rest haudio hq => ?other⟩
  case heard =>
    intro sub t quiet n served
    have hprog : ({ s with audioQ := rest } : State).prog c.prog = some r := hp
    have hn : n ≤ 3 := by
      show (if sub = true then 0 else quietThirds r.threshold c.samples) ≤ 3
      split
      · exact Nat.zero_le _
      · exact quietThirds_le ..
    have htaken : ({ s with audioQ := rest } : State).takeCopy c =
        (({ s with audioQ := rest } : State).modProg c.prog (·.hear c.taken)).makeCurrent r c.taken := by
      rw [State.takeCopy, hprog]
      rcases hstate with hstate | hstate <;> simp only [hstream, ne_eq, not_true, if_false, hstate]
    have hheard : r.hear c.taken = ({ r with audioLine := t } : Programme).judged (verdictOf n) := by
      unfold Programme.hear
      rw [c.taken_tick, c.taken_verdict]
      rfl
    rw [exec_audioTake_of_head haudio hq, htaken, State.modProg_of_some hprog, State.makeCurrent_eq (by exact haudio), hheard,
      Programme.judged_verdictOf _ hn, c.taken_tick,
      c.taken_eq]
    rfl
  case other =>
    intro taken
    have hprog : taken.prog c.prog = s.prog c.prog := rfl
    rw [exec_audioTake_of_head haudio hq]
    change (_ → Host.Outcome.next (taken.takeCopy c) = _) ∧ ∀ r, _ → (_ → Host.Outcome.next (taken.takeCopy c) = _) ∧
      (_ → _ → Host.Outcome.next (taken.takeCopy c) = _) ∧ (_ → _ → Host.Outcome.next (taken.takeCopy c) = _)
    rw [State.takeCopy]
    refine ⟨fun hp => ?_, fun r hp => ?_⟩
    · rw [hprog, hp]
      rfl
    · rw [hprog, hp]
      refine ⟨fun hstream => ?_, fun hstream hstate => ?_, fun hstream hstate => ?_⟩
      · simp only [ne_eq, hstream, not_false_iff, if_true]
        rfl
      · simp only [ne_eq, hstream, not_true, if_false, hstate]
        rfl
      · simp only [ne_eq, hstream, not_true, if_false, hstate]
        rw [State.makeCurrent_eq (by exact haudio), c.taken_tick, c.taken_eq, hstate]
        rfl

/-! ### Ramps -/

theorem rampGain_of_le {ga gb : Nat} (h : ga ≤ gb) (n k : Nat) :
    rampGain ga gb n k = ga + (gb - ga) * (k + 1) / (480 * n) := by
  have hquot : Int.tdiv (((gb : Int) - ga) * ((k : Int) + 1)) ((n : Int) * 480) = ((gb - ga) * (k + 1) / (480 * n) : Nat) := by
    rw [Int.ofNat_tdiv]
    congr 1
    · push_cast [h]; rfl
    · push_cast; ring
  rw [rampGain, hquot]
  generalize (gb - ga) * (k + 1) / (480 * n) = part
  omega

theorem rampGain_of_ge {ga gb : Nat} (h : gb ≤ ga) (n k : Nat) :
    rampGain ga gb n k = ga - (ga - gb) * (k + 1) / (480 * n) := by
  have hquot : Int.tdiv (((gb : Int) - ga) * ((k : Int) + 1)) ((n : Int) * 480) = -((ga - gb) * (k + 1) / (480 * n) : Nat) := by
    rw [Int.ofNat_tdiv, ← Int.neg_tdiv]
    congr 1
    · push_cast [h]; ring
    · push_cast; ring
  rw [rampGain, hquot]
  generalize (ga - gb) * (k + 1) / (480 * n) = part
  omega

/-- Within a ramp a part of the difference has been run through. -/
theorem rampPart_le {d n k : Nat} (hk : k < 480 * n) : d * (k + 1) / (480 * n) ≤ d :=
  Nat.div_le_of_le_mul (by rw [Nat.mul_comm]; exact Nat.mul_le_mul_right d hk)

theorem rampPart_last {d n : Nat} (hn : 1 ≤ n) : d * (480 * n - 1 + 1) / (480 * n) = d := by
  rw [Nat.sub_add_cancel (by omega)]
  exact Nat.mul_div_cancel d (by omega)

/-- Settles O31. -/
theorem rampGainsLieBetweenTheirEnds : Obligations.RampGainsLieBetweenTheirEnds := by
  unfold Obligations.RampGainsLieBetweenTheirEnds
  intro ga gb n k hn hk
  refine ⟨fun h => rampGain_of_le h n k, fun h => rampGain_of_ge h n k, ?_⟩
  rcases Nat.le_total ga gb with h | h
  · have hpart := rampPart_le (d := gb - ga) hk
    rw [rampGain_of_le h, rampGain_of_le h, rampPart_last hn]
    generalize (gb - ga) * (k + 1) / (480 * n) = part at hpart ⊢
    omega
  · have hpart := rampPart_le (d := ga - gb) hk
    rw [rampGain_of_ge h, rampGain_of_ge h, rampPart_last hn]
    generalize (ga - gb) * (k + 1) / (480 * n) = part at hpart ⊢
    omega

/-! ### The clamp -/

theorem outOfRange_eq_false_iff (y : Int) : outOfRange y = false ↔ -32768 ≤ y ∧ y ≤ 32767 := by
  rw [outOfRange, Bool.or_eq_false_iff, decide_eq_false_iff_not, decide_eq_false_iff_not, Int.not_lt, Int.not_lt]

theorem clampSample_of_mem {y : Int} (hlo : -32768 ≤ y) (hhi : y ≤ 32767) : (clampSample y).toInt = y := by
  rw [clampSample, if_neg (by omega), if_neg (by omega), BitVec.toInt_ofInt, Int.bmod_eq_of_le (by omega) (by omega)]

/-- Settles O33: a sample scaled by a gain up to 32,768 and divided again keeps the range of a sample. -/
theorem clampKeepsSamplesInRange : Obligations.ClampKeepsSamplesInRange := by
  unfold Obligations.ClampKeepsSamplesInRange
  refine ⟨fun y => ⟨outOfRange_eq_false_iff y, clampSample_of_mem, fun hhi => ?_, fun hlo => ?_⟩, fun p g gn hg => ?_⟩
  · rw [clampSample, if_pos hhi]
    rfl
  · rw [clampSample, if_neg (by omega), if_pos hlo]
    rfl
  · obtain ⟨hlo, hhi⟩ := Sample.scaled_mem p hg
    have hzero : (0 : Sample).toInt = 0 := rfl
    rw [outOfRange_eq_false_iff, mixSample, hzero]
    omega

/-! ### Mixed renderings -/

/-- An engine that holds a cue is in ATTACK, PLAY or RELEASE with it (R103). -/
theorem Engine.current?_eq_some {e : Engine} {k : CurrentCue} (h : e.current? = some k) :
    (∃ m, e = .attack m k) ∨ (∃ n, e = .play n k) ∨ ∃ m, e = .release m k := by
  cases e with
  | idle => cases h
  | attack m k' => cases h; exact .inl ⟨m, rfl⟩
  | play n k' => cases h; exact .inr (.inl ⟨n, rfl⟩)
  | release m k' => cases h; exact .inr (.inr ⟨m, rfl⟩)

section
variable {s : State} {w : AudioWork} {t : TrackSlot} {rest : List TrackSlot} {x : Track} {a : AdTrack} {r : Programme}

/-- A rendering for a copy taken in ACTIVE writes the current gain and counts the clipped samples (R117). -/
theorem AtRendering.writeRendering_of_active (h : AtRendering s w t rest x a r) (hactive : w.takenIn = .active) :
    s.writeRendering w t a = (s.setTrack t (some { x with body := .ad { a with gain := a.gainAfter } })).setProg w.copy.prog
      (some { r with counters := { r.counters with
        clippedSamples := min 4294967295 (r.counters.clippedSamples + (s.render w a).clipped) } }) := by
  obtain ⟨-, -, -, ht, hb, hp, -⟩ := h
  have hprog : (s.setTrack t (some { x with body := .ad { a with gain := a.gainAfter } })).prog w.copy.prog = some r := hp
  simp only [State.writeRendering, hactive, if_true, State.modAd_of_ad ht hb, State.countIn_of_some hprog, bump32_eq]

/-- What is made of a copy taken in ACTIVE while the engine holds the cue `k`: silence when it is substituted, else `ys` clamped. -/
theorem render_of_current {k : CurrentCue} (hactive : w.takenIn = .active) (hk : a.engine.current? = some k) {kind : RenderKind}
    {ys : List Int} (hsilent : kind = .silent ↔ w.copy.substituted = true)
    (hmixed : w.copy.substituted = false → s.renderEngine w.copy.prog a w.copy.samples = mixed kind k ys) :
    s.render w a = if kind = .silent then ⟨.silent, some k.id, false, true, 0, List.replicate 960 0⟩
      else ⟨kind, some k.id, false, false, ys.countP outOfRange, ys.map clampSample⟩ := by
  rw [State.render, if_pos hactive]
  by_cases hsub : w.copy.substituted = true
  · rw [if_pos hsub, if_pos (hsilent.mpr hsub), hk]
    rfl
  · rw [if_neg hsub, if_neg (hsub ∘ hsilent.mp), hmixed (Bool.eq_false_iff.mpr hsub)]
    rfl

/-- A mixed rendering is placed: gain, clipped samples and the parcel (R116, R117, R119 to R123). -/
theorem AtRendering.exec_of_current (h : AtRendering s w t rest x a r) {k : CurrentCue} (hactive : w.takenIn = .active)
    (hk : a.engine.current? = some k) {kind : RenderKind} {ys : List Int} (hsilent : kind = .silent ↔ w.copy.substituted = true)
    (hmixed : w.copy.substituted = false → s.renderEngine w.copy.prog a w.copy.samples = mixed kind k ys) :
    exec .adAudioPlaced s = .next { (s.setTrack t (some { x with body := .ad { a with gain := a.gainAfter } })).setProg w.copy.prog
        (some { r with counters := { r.counters with
          clippedSamples := min 4294967295 (r.counters.clippedSamples + if kind = .silent then 0 else ys.countP outOfRange) } }) with
      egress := { s.egress with
        mix := s.egress.mix ++ [adAudioParcel s.rx.address w.copy.prog t x.stream x.tag w.tick (if kind = .silent then
            ⟨.silent, some k.id, false, true, 0, List.replicate 960 0⟩
          else ⟨kind, some k.id, false, false, ys.countP outOfRange, ys.map clampSample⟩)] }
      audio := if rest = [] ∧ w.toStep = [] then none else some { w with toRender := rest } } := by
  have hrender := render_of_current (s := s) hactive hk hsilent hmixed
  have hclipped : (s.render w a).clipped = if kind = .silent then 0 else ys.countP outOfRange := by
    rw [hrender]
    split <;> rfl
  rw [h.exec_adAudioPlaced, h.writeRendering_of_active hactive, hclipped, State.adAudioOf, hrender]

/-- The kind of a mixed rendering: silent for a substituted copy. -/
def kindOr (w : AudioWork) (kind : RenderKind) : RenderKind := if w.copy.substituted = true then .silent else kind

theorem kindOr_silent {kind : RenderKind} (h : kind ≠ .silent) : kindOr w kind = .silent ↔ w.copy.substituted = true := by
  unfold kindOr
  split
  next hsub => exact iff_of_true rfl hsub
  next hsub => exact iff_of_false h hsub

theorem kindOr_of_whole {kind : RenderKind} (h : w.copy.substituted = false) : kindOr w kind = kind :=
  if_neg (Bool.eq_false_iff.mp h)

/-- A substituted copy with no cue to name is rendered SILENT and writes neither table (R123, R124). -/
theorem State.render_silent (hsub : w.copy.substituted = true) (hidle : w.takenIn = .active → a.engine = .idle) :
    s.render w a = ⟨.silent, none, decide (w.takenIn ≠ .active), true, 0, List.replicate 960 0⟩ := by
  by_cases hactive : w.takenIn = .active
  · rw [State.render, if_pos hactive, if_pos hsub, hidle hactive, hactive]
    rfl
  · rw [State.render, if_neg hactive, if_pos hsub, decide_eq_true hactive]

/-- The narration sample of a page that is present: 0 at and after the valid samples of the last page (R122). -/
theorem Clip.sampleAt_of_page {c : Clip} {page : Page} {n i : Nat} (h : c.pages[n]? = some (some page)) :
    c.sampleAt n i = if n + 1 = c.declared ∧ c.lastValid.getD 480 ≤ i then 0 else page.getD i 0 := by
  simp only [Clip.sampleAt, List.getD_eq_getElem?_getD, h, Option.getD_some]

/-- A rendering reads nothing of the arbiter but the unit's tables, and writes the tables alone. -/
theorem State.writeRendering_setEgress (s : State) (e : Egress) (w : AudioWork) (t : TrackSlot) (a : AdTrack) :
    ({ s with egress := e } : State).writeRendering w t a = { s.writeRendering w t a with egress := e } := by
  have hrender : ({ s with egress := e } : State).render w a = s.render w a := rfl
  unfold State.writeRendering
  rw [hrender]
  split <;> rfl

end

/-- Settles O30. -/
theorem mixedRenderingsWriteTheGain : Obligations.MixedRenderingsWriteTheGain := by
  unfold Obligations.MixedRenderingsWriteTheGain
  refine ⟨fun s w t rest x a r k h hactive hk => ?current, fun s w t rest x a r h hsub hcase => ?silent,
    fun s p k c page n i hclip hpage hi => ?page,
    fun s w t rest x a haudio hrendered htoRender ht hb hfull => ?held, fun s w p haudio hrendered => ?placed⟩
  case current =>
    rcases Engine.current?_eq_some hk with ⟨m, hengine⟩ | ⟨n, hengine⟩ | ⟨m, hengine⟩
    · refine ⟨kindOr w .ramp, mixFrames (fun i => rampGain a.rampStart a.rampTarget a.attack (480 * (a.attack - m) + i)) (fun _ => 0) 0 0
        w.copy.samples, a.gainAfter, (kindOr_silent (kind := .ramp) nofun).mpr, fun m' he => ?_,
        fun _ he => absurd (hengine.symm.trans he) nofun, fun _ he => absurd (hengine.symm.trans he) nofun,
        h.exec_of_current hactive hk (kindOr_silent (kind := .ramp) nofun) fun hwhole => ?_⟩
      · cases hengine.symm.trans he
        exact ⟨by rw [AdTrack.gainAfter, hengine]; rfl, fun hwhole => ⟨kindOr_of_whole hwhole, rfl⟩⟩
      · rw [kindOr_of_whole hwhole, State.renderEngine, hengine]
        rfl
    · refine ⟨kindOr w .narration, mixFrames (fun _ => k.gd.getD a.gd) (s.narration w.copy.prog k n) (k.gn.getD a.gn) 0 w.copy.samples,
        a.gainAfter, (kindOr_silent (kind := .narration) nofun).mpr, fun _ he => absurd (hengine.symm.trans he) nofun,
        fun _ he => absurd (hengine.symm.trans he) nofun, fun n' he => ?_,
        h.exec_of_current hactive hk (kindOr_silent (kind := .narration) nofun) fun hwhole => ?_⟩
      · cases hengine.symm.trans he
        exact ⟨by rw [AdTrack.gainAfter, hengine]; rfl, fun hwhole => ⟨kindOr_of_whole hwhole, rfl⟩⟩
      · rw [kindOr_of_whole hwhole, State.renderEngine, hengine]
        rfl
    · refine ⟨kindOr w .ramp, mixFrames (fun i => rampGain a.rampStart a.rampTarget a.release (480 * (a.release - m) + i)) (fun _ => 0) 0 0
        w.copy.samples, a.gainAfter, (kindOr_silent (kind := .ramp) nofun).mpr, fun _ he => absurd (hengine.symm.trans he) nofun,
        fun m' he => ?_, fun _ he => absurd (hengine.symm.trans he) nofun,
        h.exec_of_current hactive hk (kindOr_silent (kind := .ramp) nofun) fun hwhole => ?_⟩
      · cases hengine.symm.trans he
        exact ⟨by rw [AdTrack.gainAfter, hengine]; rfl, fun hwhole => ⟨kindOr_of_whole hwhole, rfl⟩⟩
      · rw [kindOr_of_whole hwhole, State.renderEngine, hengine]
        rfl
  case silent =>
    have hidle : w.takenIn = .active → a.engine = .idle := by
      intro hactive
      rcases hcase with ⟨-, hidle⟩ | hhalted | hdraining
      · exact hidle
      · cases hactive.symm.trans hhalted
      · cases hactive.symm.trans hdraining
    have hrender := State.render_silent (s := s) hsub hidle
    have hwrite : s.writeRendering w t a = s :=
      h.writeRendering_eq_self (fun hactive => by rw [AdTrack.gainAfter, hidle hactive]) (by rw [hrender])
    refine ⟨_, h.exec_adAudioPlaced, ?_⟩
    rw [hwrite, State.adAudioOf, hrender]
    exact ⟨rfl, rfl, fun _ => rfl, fun _ => rfl, rfl⟩
  case page =>
    have hnarration : s.narration p k n i = c.sampleAt n i := by rw [State.narration, hclip]
    rw [hnarration, Clip.sampleAt_of_page hpage]
    refine ⟨fun hlast => if_neg fun h => hlast h.1, fun hlast v hv => ?_⟩
    rw [hv, Option.getD_some]
    by_cases hvalid : i < v
    · rw [if_pos hvalid, if_neg fun h => Nat.not_le.mpr hvalid h.2]
    · rw [if_neg hvalid, if_pos ⟨hlast, Nat.not_lt.mp hvalid⟩]
  case held =>
    intro roomy
    have hroom : (s.writeRendering w t a).mixRoom = false := by
      rw [State.mixRoom_eq, State.writeRendering_egress]
      exact decide_eq_false (Nat.not_lt.mpr hfull)
    have hwrite : roomy.writeRendering w t a = { s.writeRendering w t a with egress := { s.egress with mix := [] } } :=
      s.writeRendering_setEgress _ w t a
    have hroomy : (roomy.writeRendering w t a).mixRoom = true := by rw [hwrite]; rfl
    have hplaced : exec .adAudioPlaced roomy = .next ((roomy.writeRendering w t a).placeMix { w with toRender := rest } (s.adAudioOf w t x a)) := by
      simp only [exec_adAudioPlaced_eq, execAdAudioPlaced, show roomy.audio = some w from haudio, hrendered, htoRender,
        show roomy.track t = some x from ht, Track.ad?_of_body hb]
      rfl
    have hheld : exec .adAudioPlaced s = .next ((s.writeRendering w t a).placeMix { w with toRender := rest } (s.adAudioOf w t x a)) := by
      simp only [exec_adAudioPlaced_eq, execAdAudioPlaced, haudio, hrendered, htoRender, ht, Track.ad?_of_body hb]
    refine ⟨_, s.adAudioOf w t x a, hplaced, ?_, ?_⟩
    · rw [State.placeMix, if_pos hroomy, hwrite]
      rfl
    · rw [hheld, State.placeMix, State.placeMix, if_pos hroomy, hroom, if_neg Bool.false_ne_true, hwrite, State.continueAudio,
        State.continueAudio]
      have hegress := s.writeRendering_egress w t a
      simp only [Option.isNone_some, Bool.and_false, Bool.false_eq_true, if_false, hegress]
  case placed =>
    have hplaced : exec .adAudioPlaced s = .next (s.placeMix w p) := by
      simp only [exec_adAudioPlaced_eq, execAdAudioPlaced, haudio, hrendered]
    rw [hplaced, State.placeMix, State.mixRoom_eq]
    refine ⟨fun hroom => ?_, fun hfull => ?_⟩
    · rw [if_pos (decide_eq_true hroom), State.continueAudio_of_rendered_none rfl]
    · have hw : ({ w with rendered := some p } : AudioWork) = w := by rw [← hrendered]
      rw [if_neg (by simpa using hfull), hw, State.continueAudio, hrendered, Option.isNone_some, Bool.and_false, if_neg Bool.false_ne_true,
        ← haudio]

end Sys2Proof.Machine
end

section
/-! PROOF. A step of an AD track: an engine that goes on, the end of a description, and a head that triggers. -/

namespace Sys2Proof.Machine

/-! ### The engine's own steps -/

section
variable {s : State} {p : ProgSlot} {t : TrackSlot} {r : Programme} {x : Track} {a : AdTrack}

/-- A cue is DONE: counted, and its clip freed unless it is still referenced (R112). -/
theorem State.cueDone_eq (hp : s.prog p = some r) (clip : Nat) :
    s.cueDone p clip = (s.setProg p (some r.oneDone)).clipFreed p clip := by
  rw [State.cueDone, State.countIn_of_some hp, State.freeingTest_eq]
  rfl

theorem State.goOnAttack_eq (ht : s.track t = some x) (hb : x.body = .ad a) (left : Nat) (k : CurrentCue) :
    s.goOnAttack t left k = s.setTrack t (some { x with
      body := .ad { a with engine := if left ≤ 1 then .play 0 k else .attack (left - 1) k } }) :=
  State.modAd_of_ad ht hb _

theorem State.goOnRelease_of_more (ht : s.track t = some x) (hb : x.body = .ad a) {left : Nat} (h : 2 ≤ left) (k : CurrentCue) :
    s.goOnRelease p t left k = s.setTrack t (some { x with body := .ad { a with engine := .release (left - 1) k } }) := by
  rw [State.goOnRelease, if_neg (by omega), State.modAd_of_ad ht hb]

theorem State.goOnRelease_of_last (hp : s.prog p = some r) (ht : s.track t = some x) (hb : x.body = .ad a) {left : Nat} (h : left ≤ 1)
    (k : CurrentCue) : s.goOnRelease p t left k =
      ((s.setTrack t (some { x with body := .ad a.atRest })).setProg p (some r.oneDone)).clipFreed p k.clip := by
  have hprog : (s.setTrack t (some { x with body := .ad a.atRest })).prog p = some r := hp
  rw [State.goOnRelease, if_pos h, State.modAd_of_ad ht hb]
  exact State.cueDone_eq hprog k.clip

theorem State.lastPage_of_clip {k : CurrentCue} {c : Clip} (h : s.clip? p k.clip = some c) (page : Nat) :
    s.lastPage p k page = decide (c.declared ≤ page + 1) := by
  rw [State.lastPage, h]

/-! ### The head's verdict (R106 to R108) -/

theorem State.headVerdict_of_head {h : AdCue} {behind : List AdCue} (hc : a.cues = h :: behind) (tick : Nat) :
    s.headVerdict p r a tick = some (h, h.verdict r (s.clipReady p h.clip) tick) := by
  rw [State.headVerdict, hc]
  rfl

/-- A head whose earliest tick has come is past its waiting. -/
theorem AdCue.not_waiting {h : AdCue} {tick : Nat} (hcome : h.state = .armed ∨ h.earliest ≤ tick) :
    ¬ (h.state = .pending ∧ tick < h.earliest) := by
  rintro ⟨hpending, hbefore⟩
  rcases hcome with harmed | hcome
  · cases hpending.symm.trans harmed
  · omega

theorem AdCue.verdict_triggers {h : AdCue} {tick : Nat} (hcome : h.state = .armed ∨ h.earliest ≤ tick)
    (hdue : h.QuietEnough r ∨ h.latest ≤ tick) : h.verdict r true tick = .triggers := by
  rw [AdCue.verdict, if_neg (AdCue.not_waiting hcome), Bool.true_and]
  by_cases hquiet : h.QuietEnough r
  · rw [if_pos ((h.held_iff r).mpr hquiet)]
  · rw [if_neg (hquiet ∘ (h.held_iff r).mp), if_neg (Nat.not_lt.mpr (hdue.resolve_left hquiet)), if_pos rfl]

theorem AdCue.verdict_arms {h : AdCue} {tick : Nat} (hcome : h.state = .armed ∨ h.earliest ≤ tick) (hbefore : tick < h.latest)
    {ready : Bool} (hnot : ready = false ∨ ¬ h.QuietEnough r) : h.verdict r ready tick = .arms := by
  have hheld : (ready && h.held r) = false := by
    rw [Bool.and_eq_false_iff]
    exact hnot.imp_right fun hquiet => Bool.eq_false_iff.mpr (hquiet ∘ (h.held_iff r).mp)
  rw [AdCue.verdict, if_neg (AdCue.not_waiting hcome), hheld, if_neg Bool.false_ne_true, if_pos hbefore]

theorem AdCue.verdict_missed {h : AdCue} {tick : Nat} (hcome : h.state = .armed ∨ h.earliest ≤ tick) (hdue : h.latest ≤ tick) :
    h.verdict r false tick = .missed := by
  rw [AdCue.verdict, if_neg (AdCue.not_waiting hcome), Bool.false_and, if_neg Bool.false_ne_true, if_neg (Nat.not_lt.mpr hdue),
    if_neg Bool.false_ne_true]

/-- The trigger writes what the statement's picture says (R109). -/
theorem AdTrack.trigger_eq {h : AdCue} {behind : List AdCue} (hc : a.cues = h :: behind) : a.trigger h = a.triggered h behind := by
  unfold AdTrack.trigger AdTrack.triggered
  rw [hc]
  rfl

theorem AdTrack.armHead_eq {h : AdCue} {behind : List AdCue} (hc : a.cues = h :: behind) :
    a.armHead = { a with cues := { h with state := .armed } :: behind } := by
  rw [AdTrack.armHead, hc]

theorem AdTrack.remove_head {h : AdCue} {behind : List AdCue} (hc : a.cues = h :: behind) (hother : ∀ y ∈ behind, y.id ≠ h.id) :
    a.remove h.id = { a with cues := behind } := by
  rw [AdTrack.remove, hc, List.filter_cons, if_neg (by simp), List.filter_eq_self.mpr fun y hy => by simpa using hother y hy]

end

/-! ### A step that is reached -/

section
variable {s : State} {w : AudioWork} {t : TrackSlot} {rest : List TrackSlot} {r : Programme} {x : Track} {a : AdTrack}

/-- The part in which the current parcel has gone on past the track that is stepped. -/
def State.wentOn (s : State) (w : AudioWork) (rest : List TrackSlot) : State := { s with audio := leftToStep w rest }

theorem ReachesStep.prog (h : ReachesStep s w t rest r x a) : (s.wentOn w rest).prog w.copy.prog = some r := by
  obtain ⟨-, -, -, -, hp, -⟩ := h
  exact hp

theorem ReachesStep.track (h : ReachesStep s w t rest r x a) : (s.wentOn w rest).track t = some x := by
  obtain ⟨-, -, -, -, -, -, ht, -⟩ := h
  exact ht

theorem ReachesStep.body (h : ReachesStep s w t rest r x a) : x.body = .ad a := by
  obtain ⟨-, -, -, -, -, -, -, hb⟩ := h
  exact hb

theorem AtStep.exec_of_attack (h : AtStep s w t rest r x a) {m : Nat} {k : CurrentCue} (he : a.engine = .attack m k) :
    exec .eventStep s = .next ((s.wentOn w rest).goOnAttack t m k) := by
  have hact := h.1.actEngine w.copy.ordinal w.tick
  simp only [he] at hact
  exact h.eventStep.trans (congrArg _ hact)

theorem AtStep.exec_of_play (h : AtStep s w t rest r x a) {n : Nat} {k : CurrentCue} (he : a.engine = .play n k) :
    exec .eventStep s = .next ((s.wentOn w rest).goOnPlay w.copy.prog t a n k) := by
  have hact := h.1.actEngine w.copy.ordinal w.tick
  simp only [he] at hact
  exact h.eventStep.trans (congrArg _ hact)

theorem AtStep.exec_of_release (h : AtStep s w t rest r x a) {m : Nat} {k : CurrentCue} (he : a.engine = .release m k) :
    exec .eventStep s = .next ((s.wentOn w rest).stepRelease w.copy.prog t r a w.copy.ordinal w.tick m k) := by
  have hact := h.1.actEngine w.copy.ordinal w.tick
  simp only [he] at hact
  exact h.eventStep.trans (congrArg _ hact)

theorem AtStep.exec_of_idle (h : AtStep s w t rest r x a) (he : a.engine = .idle) :
    exec .eventStep s = .next ((s.wentOn w rest).stepIdle w.copy.prog t r a w.copy.ordinal w.tick) := by
  have hact := h.1.actEngine w.copy.ordinal w.tick
  simp only [he] at hact
  exact h.eventStep.trans (congrArg _ hact)

/-- A step that leaves the fields as they are leaves the track. -/
theorem ReachesStep.stepped_self (h : ReachesStep s w t rest r x a) : s.stepped w t rest x a = s.wentOn w rest := by
  have hx : ({ x with body := .ad a } : Track) = x := by rw [← h.body]
  have ht : s.track t = some x := h.track
  rw [State.stepped, hx, State.setTrack_of_eq ht]
  rfl

theorem stepRelease_of_waits {s : State} {p : ProgSlot} {tick : Nat} (hw : a.HeadWaits tick) (o : BitVec 32) (m : Nat) (k : CurrentCue) :
    s.stepRelease p t r a o tick m k = s.goOnRelease p t m k := by
  unfold State.stepRelease
  rcases hw.headVerdict s p r with hv | ⟨h, hv⟩ <;> rw [hv]

theorem stepIdle_of_waits {s : State} {p : ProgSlot} {tick : Nat} (hw : a.HeadWaits tick) (o : BitVec 32) :
    s.stepIdle p t r a o tick = s := by
  unfold State.stepIdle
  rcases hw.headVerdict s p r with hv | ⟨h, hv⟩ <;> rw [hv]

theorem AdTrack.headWaits_of_head {h : AdCue} {behind : List AdCue} {tick : Nat} (hc : a.cues = h :: behind)
    (hpending : h.state = .pending) (hbefore : tick < h.earliest) : a.HeadWaits tick := by
  intro h' hh
  rw [hc] at hh
  cases hh
  exact ⟨hpending, hbefore⟩

end

/-- Settles O34. -/
theorem attackAndPlayAdvanceByOneParcel : Obligations.AttackAndPlayAdvanceByOneParcel := by
  unfold Obligations.AttackAndPlayAdvanceByOneParcel
  intro s w t rest r x a k h
  have ht := h.1.track
  have hb := h.1.body
  refine ⟨fun m he hm => ?_, fun he => ?_, fun n c he hclip hn => ?_, fun n c he hclip hn hrelease => ?_, fun m he hm hw => ?_,
    fun he hw => ?_⟩
  · rw [h.exec_of_attack he, State.goOnAttack_eq ht hb, if_neg (by omega)]
    rfl
  · rw [h.exec_of_attack he, State.goOnAttack_eq ht hb, if_pos (Nat.le_refl 1)]
    rfl
  · have hlast : (s.wentOn w rest).lastPage w.copy.prog k n = false := by
      rw [State.lastPage_of_clip (s := s.wentOn w rest) hclip]
      exact decide_eq_false (by omega)
    rw [h.exec_of_play he, State.goOnPlay, hlast, if_neg Bool.false_ne_true, State.modAd_of_ad ht hb]
    rfl
  · have hlast : (s.wentOn w rest).lastPage w.copy.prog k n = true := by
      rw [State.lastPage_of_clip (s := s.wentOn w rest) hclip]
      exact decide_eq_true (by omega)
    rw [h.exec_of_play he, State.goOnPlay, hlast, if_pos rfl, if_neg (by omega), State.modAd_of_ad ht hb]
    rfl
  · rw [h.exec_of_release he, stepRelease_of_waits hw, State.goOnRelease_of_more ht hb hm]
    rfl
  · rw [h.exec_of_idle he, stepIdle_of_waits hw, h.1.stepped_self]

/-- Settles O35. -/
theorem descriptionEndsDoneAndFreesItsClip : Obligations.DescriptionEndsDoneAndFreesItsClip := by
  unfold Obligations.DescriptionEndsDoneAndFreesItsClip
  rintro s w t rest r x a k h (⟨he, hw⟩ | ⟨hrelease, n, c, he, hclip, hn⟩)
  · rw [h.exec_of_release he, stepRelease_of_waits hw, State.goOnRelease_of_last h.1.prog h.1.track h.1.body (Nat.le_refl 1)]
    rfl
  · have hlast : (s.wentOn w rest).lastPage w.copy.prog k n = true := by
      rw [State.lastPage_of_clip (s := s.wentOn w rest) hclip]
      exact decide_eq_true (by omega)
    rw [h.exec_of_play he, State.goOnPlay, hlast, if_pos rfl, if_pos hrelease, State.modAd_of_ad h.1.track h.1.body,
      State.cueDone_eq (by rw [State.setTrack_prog]; exact h.1.prog)]
    rfl

/-- Settles O36. -/
theorem headTriggersOnQuietOrAtItsDeadline : Obligations.HeadTriggersOnQuietOrAtItsDeadline := by
  unfold Obligations.HeadTriggersOnQuietOrAtItsDeadline
  intro s w t rest r x a h behind hat hc hready hcome hdue fired
  have hreadyOn : (s.wentOn w rest).clipReady w.copy.prog h.clip = true := hready
  have hverdict : (s.wentOn w rest).headVerdict w.copy.prog r a w.tick = some (h, .triggers) := by
    rw [State.headVerdict_of_head hc, hreadyOn, AdCue.verdict_triggers hcome hdue]
  refine ⟨fun he => ?_, fun m k he => ?_⟩
  · rw [hat.exec_of_idle he, State.stepIdle, hverdict]
    dsimp only
    rw [State.modAd_of_ad hat.1.track hat.1.body, AdTrack.trigger_eq hc]
    rfl
  · rw [hat.exec_of_release he, State.stepRelease, hverdict]
    dsimp only
    rw [State.modAd_of_ad hat.1.track hat.1.body, AdTrack.trigger_eq hc,
      State.cueDone_eq (by rw [State.setTrack_prog]; exact hat.1.prog)]
    rfl

/-! ### Freeing clips while the engine changes -/

section
variable {s : State} {p : ProgSlot} {t : TrackSlot} {x : Track} {a a' : AdTrack}

/-- A track that holds the same cues and the same current cue references the same clips (R93). -/
theorem State.references_of_clipIds (hclips : a'.clipIds = a.clipIds) (id : Nat) :
    (s.setTrack t (some { x with body := .ad a' })).references p id = (s.setTrack t (some { x with body := .ad a })).references p id := by
  obtain ⟨o, ho⟩ := s.references_setTrack p t x id
  rw [ho a', ho a, hclips]

theorem State.clipFreed_setTrack (hclips : a'.clipIds = a.clipIds) (q : Option Programme) (id : Nat) :
    (((s.setTrack t (some { x with body := .ad a })).setProg p q).clipFreed p id).setTrack t (some { x with body := .ad a' })
      = ((s.setTrack t (some { x with body := .ad a' })).setProg p q).clipFreed p id := by
  have href : ((s.setTrack t (some { x with body := .ad a' })).setProg p q).references p id =
      ((s.setTrack t (some { x with body := .ad a })).setProg p q).references p id := State.references_of_clipIds hclips id
  unfold State.clipFreed
  rw [href, ← State.setTrack_setTrack s t (some { x with body := .ad a }) (some { x with body := .ad a' })]
  rfl

/-- The clips left when the clip `id` of programme `p` goes unless it is kept. -/
def clipsLeft (p : ProgSlot) (id : Nat) (kept : Bool) (clips : List Clip) : List Clip :=
  if kept = true then clips else clips.filter fun c => !(decide (c.prog = p) && decide (c.id = id))

@[simp] theorem State.clipFreed_prog (s : State) (p q : ProgSlot) (id : Nat) : (s.clipFreed p id).prog q = s.prog q := rfl

@[simp] theorem State.clipFreed_track (s : State) (p : ProgSlot) (id : Nat) (t : TrackSlot) : (s.clipFreed p id).track t = s.track t := rfl

theorem clipsLeft_clipsLeft (p : ProgSlot) (id : Nat) (kept : Bool) (clips : List Clip) :
    clipsLeft p id kept (clipsLeft p id kept clips) = clipsLeft p id kept clips := by
  unfold clipsLeft
  split
  · rfl
  · rw [List.filter_filter]
    simp only [Bool.and_self]

/-- Freeing another clip is the same before and after the engine drops the cue `k`; freeing the clip of `k` itself comes to the same
then, since that clip is freed once more when `k` is DONE. -/
theorem State.clipFreed_atRest {k : CurrentCue} (hk : a.engine.current? = some k) (q q' : Option Programme) (id : Nat) :
    (((((s.setTrack t (some { x with body := .ad a })).setProg p q).clipFreed p id).setTrack t (some { x with body := .ad a.atRest })).setProg
        p q').clipFreed p k.clip
      = (((s.setTrack t (some { x with body := .ad a.atRest })).setProg p q').clipFreed p id).clipFreed p k.clip := by
  let before := s.setTrack t (some { x with body := .ad a })
  let after := (s.setTrack t (some { x with body := .ad a.atRest })).setProg p q'
  have hwrite : ((before.setProg p q).setTrack t (some { x with body := .ad a.atRest })).setProg p q' = after := by
    rw [State.setTrack_setProg, State.setTrack_setTrack, State.setProg_setProg]
  have hleft : ((((before.setProg p q).clipFreed p id).setTrack t (some { x with body := .ad a.atRest })).setProg p q').clipFreed p k.clip
      = { after with clips := clipsLeft p k.clip (after.references p k.clip) (clipsLeft p id (before.references p id) s.clips) } := by
    rw [← hwrite]
    rfl
  have hright : (after.clipFreed p id).clipFreed p k.clip
      = { after with clips := clipsLeft p k.clip (after.references p k.clip) (clipsLeft p id (after.references p id) s.clips) } := rfl
  refine hleft.trans (Eq.trans (congrArg (fun clips => ({ after with clips := clips } : State)) ?_) hright.symm)
  obtain ⟨o, ho⟩ := s.references_setTrack p t x id
  have hbefore : before.references p id = (o || (x.prog == p && a.clipIds.contains id)) := ho a
  have hafter : after.references p id = (o || (x.prog == p && a.atRest.clipIds.contains id)) := ho a.atRest
  have hrest : a.atRest.clipIds = a.cues.map (·.clip) := List.append_nil _
  have hheld : a.clipIds = a.cues.map (·.clip) ++ [k.clip] := by rw [AdTrack.clipIds, hk]; rfl
  by_cases hid : id = k.clip
  · subst hid
    rw [clipsLeft_clipsLeft]
    cases hkept : before.references p k.clip with
    | true => rfl
    | false =>
      have hfree : after.references p k.clip = false := by
        rw [hbefore, hheld] at hkept
        rw [hafter, hrest]
        simp only [Bool.or_eq_false_iff, Bool.and_eq_false_iff, List.contains_eq_mem, List.mem_append, decide_eq_false_iff_not, not_or] at hkept ⊢
        exact ⟨hkept.1, hkept.2.imp_right And.left⟩
      rw [hfree, clipsLeft_clipsLeft]
  · rw [hbefore, hafter, hheld, hrest]
    simp only [List.contains_eq_mem, List.mem_append, List.mem_singleton, hid, or_false]

end

end Sys2Proof.Machine
end

section
/-! PROOF. A step of an AD track: a head that is missed, and what a step does to the record of its programme. -/

namespace Sys2Proof.Machine

/-! ### A head that arms or is missed -/

section
variable {s : State} {p : ProgSlot} {t : TrackSlot} {r : Programme} {x : Track} {a : AdTrack} {h : AdCue} {behind : List AdCue}
  {tick : Nat}

/-- A head is MISSED at its deadline when its clip is not READY (R108). -/
def HeadMissed (s : State) (p : ProgSlot) (h : AdCue) (tick : Nat) : Prop :=
  (h.state = .armed ∨ h.earliest ≤ tick) ∧ h.latest ≤ tick ∧ s.clipReady p h.clip = false

theorem HeadMissed.headVerdict (hmissed : HeadMissed s p h tick) (hc : a.cues = h :: behind) :
    s.headVerdict p r a tick = some (h, .missed) := by
  obtain ⟨hcome, hdue, hready⟩ := hmissed
  rw [State.headVerdict_of_head hc, hready, AdCue.verdict_missed hcome hdue]

/-- The head leaves the list, is counted and posted, and its clip is freed unless it is still referenced (R112). -/
theorem State.cueMissed_head (hp : s.prog p = some r) (ht : s.track t = some x) (hb : x.body = .ad a) (hc : a.cues = h :: behind)
    (hother : ∀ y ∈ behind, y.id ≠ h.id) (code : ResultCode) (o : BitVec 32) : s.cueMissed p t code o h =
      ((s.setTrack t (some { x with body := .ad { a with cues := behind } })).setProg p (some (r.oneMissed t h.id code o))).clipFreed p
        h.clip := by
  rw [State.cueMissed_eq hp ht hb, AdTrack.remove_head hc hother]

theorem State.stepIdle_of_missed (hp : s.prog p = some r) (ht : s.track t = some x) (hb : x.body = .ad a) (hc : a.cues = h :: behind)
    (hother : ∀ y ∈ behind, y.id ≠ h.id) (hmissed : HeadMissed s p h tick) (o : BitVec 32) : s.stepIdle p t r a o tick =
      ((s.setTrack t (some { x with body := .ad { a with cues := behind } })).setProg p (some (r.oneMissed t h.id .absent o))).clipFreed p
        h.clip := by
  rw [State.stepIdle, hmissed.headVerdict hc]
  exact State.cueMissed_head hp ht hb hc hother .absent o

/-- A release goes on after its head has been MISSED (R111). -/
theorem State.stepRelease_of_missed_more (hp : s.prog p = some r) (ht : s.track t = some x) (hb : x.body = .ad a)
    (hc : a.cues = h :: behind) (hother : ∀ y ∈ behind, y.id ≠ h.id) (hmissed : HeadMissed s p h tick) (o : BitVec 32) {m : Nat}
    {k : CurrentCue} (he : a.engine = .release m k) (hm : 2 ≤ m) : s.stepRelease p t r a o tick m k =
      ((s.setTrack t (some { x with body := .ad { a with cues := behind, engine := .release (m - 1) k } })).setProg p
        (some (r.oneMissed t h.id .absent o))).clipFreed p h.clip := by
  have hids : { a with cues := behind, engine := .release (m - 1) k }.clipIds = { a with cues := behind }.clipIds := by
    simp only [AdTrack.clipIds, he, Engine.current?]
  rw [State.stepRelease, hmissed.headVerdict hc]
  dsimp only
  rw [State.cueMissed_head hp ht hb hc hother, State.goOnRelease_of_more (x := { x with body := .ad { a with cues := behind } })
    (a := { a with cues := behind }) (by simp) rfl hm]
  exact State.clipFreed_setTrack hids _ h.clip

/-- A release ends after its head has been MISSED: the releasing cue is DONE (R111). -/
theorem State.stepRelease_of_missed_last (hp : s.prog p = some r) (ht : s.track t = some x) (hb : x.body = .ad a)
    (hc : a.cues = h :: behind) (hother : ∀ y ∈ behind, y.id ≠ h.id) (hmissed : HeadMissed s p h tick) (o : BitVec 32) {m : Nat}
    {k : CurrentCue} (he : a.engine = .release m k) (hm : m ≤ 1) : s.stepRelease p t r a o tick m k =
      (((s.setTrack t (some { x with body := .ad { a with cues := behind }.atRest })).setProg p
        (some (r.oneMissed t h.id .absent o).oneDone)).clipFreed p h.clip).clipFreed p k.clip := by
  have hk : ({ a with cues := behind } : AdTrack).engine.current? = some k := congrArg Engine.current? he
  rw [State.stepRelease, hmissed.headVerdict hc]
  dsimp only
  rw [State.cueMissed_head hp ht hb hc hother, State.goOnRelease_of_last (r := r.oneMissed t h.id .absent o)
    (x := { x with body := .ad { a with cues := behind } }) (a := { a with cues := behind })
    (by simp) (by simp) rfl hm]
  exact State.clipFreed_atRest hk _ _ h.clip

/-! ### A step and the record of its programme -/

/-- A change that acts on the record of programme `p` by `g`, whatever the record is, and reads nothing of it. -/
def ActsOn (p : ProgSlot) (f : State → State) (g : Programme → Programme) : Prop :=
  ∀ s q, f (s.setProg p (some q)) = (f s).setProg p (some (g q))

theorem ActsOn.comp {f f' : State → State} {g g' : Programme → Programme} (h : ActsOn p f g) (h' : ActsOn p f' g') :
    ActsOn p (fun s => f' (f s)) (fun q => g' (g q)) := by
  intro s q
  show f' (f (s.setProg p (some q))) = _
  rw [h s q, h' (f s) (g q)]

theorem actsOn_id : ActsOn p id id := fun _ _ => rfl

theorem actsOn_modAd (t : TrackSlot) (f : AdTrack → AdTrack) : ActsOn p (·.modAd t f) id := fun _ _ => rfl

theorem actsOn_cueDone (clip : Nat) : ActsOn p (·.cueDone p clip) Programme.oneDone := by
  intro s q
  have hcount : (s.countIn p fun k => { k with eventsDone := bump32 k.eventsDone 1 }).setProg p (some q.oneDone) =
      s.setProg p (some q.oneDone) := by
    rw [State.countIn, State.modProg, State.setProg_setProg]
  dsimp only
  rw [State.cueDone_eq (r := q) (by simp), State.setProg_setProg, ← hcount, State.cueDone, State.freeingTest_eq]
  rfl

theorem actsOn_goOnRelease (t : TrackSlot) (left : Nat) (k : CurrentCue) :
    ActsOn p (·.goOnRelease p t left k) (if left ≤ 1 then Programme.oneDone else id) := by
  unfold State.goOnRelease
  by_cases hleft : left ≤ 1
  · simp only [hleft, if_true]
    exact (actsOn_modAd t _).comp (actsOn_cueDone k.clip)
  · simp only [hleft, if_false]
    exact actsOn_modAd t _

theorem actsOn_goOnPlay (t : TrackSlot) (a : AdTrack) (page : Nat) (k : CurrentCue) (s : State) : ∃ f g, ActsOn p f g ∧
    (g = id ∨ g = Programme.oneDone) ∧ ∀ q, (s.setProg p q).goOnPlay p t a page k = f (s.setProg p q) := by
  have hlast : ∀ q, (s.setProg p q).lastPage p k page = s.lastPage p k page := fun _ => rfl
  unfold State.goOnPlay
  simp only [hlast]
  by_cases hend : s.lastPage p k page = true
  · by_cases hrelease : a.release = 0
    · exact ⟨_, _, (actsOn_modAd t AdTrack.toIdle).comp (actsOn_cueDone k.clip), .inr rfl, fun q => by simp only [hend, hrelease, if_true]⟩
    · exact ⟨_, _, actsOn_modAd t fun a => { a with engine := .release a.release k, rampStart := a.gain, rampTarget := 32768 }, .inl rfl,
        fun q => by simp only [hend, hrelease, if_true, if_false]⟩
  · exact ⟨_, _, actsOn_modAd t fun a => { a with engine := .play (page + 1) k }, .inl rfl,
      fun q => by simp only [hend, Bool.false_eq_true, if_false]⟩

/-- Records with the same runs judge a head alike (R107). -/
theorem headVerdict_congr {q : Programme} (hquiet : q.quietRun = r.quietRun) (hstrict : q.strictRun = r.strictRun) (q' : Option Programme)
    (tick : Nat) : (s.setProg p q').headVerdict p q a tick = s.headVerdict p r a tick := by
  have hheld : ∀ h : AdCue, h.held q = h.held r := fun h => by rw [AdCue.held, AdCue.held, hquiet, hstrict]
  simp only [State.headVerdict, AdCue.verdict, hheld]
  rfl

theorem State.actEngine_of_idle (hp : s.prog p = some r) (ha : s.ad? t = some a) (he : a.engine = .idle) (o : BitVec 32) (tick : Nat) :
    s.actEngine p t o tick = s.stepIdle p t r a o tick := by
  simp only [State.actEngine, hp, ha, he]

theorem State.actEngine_of_attack (hp : s.prog p = some r) (ha : s.ad? t = some a) {m : Nat} {k : CurrentCue}
    (he : a.engine = .attack m k) (o : BitVec 32) (tick : Nat) : s.actEngine p t o tick = s.goOnAttack t m k := by
  simp only [State.actEngine, hp, ha, he]

theorem State.actEngine_of_play (hp : s.prog p = some r) (ha : s.ad? t = some a) {n : Nat} {k : CurrentCue} (he : a.engine = .play n k)
    (o : BitVec 32) (tick : Nat) : s.actEngine p t o tick = s.goOnPlay p t a n k := by
  simp only [State.actEngine, hp, ha, he]

theorem State.actEngine_of_release (hp : s.prog p = some r) (ha : s.ad? t = some a) {m : Nat} {k : CurrentCue}
    (he : a.engine = .release m k) (o : BitVec 32) (tick : Nat) :
    s.actEngine p t o tick = s.stepRelease p t r a o tick m k := by
  simp only [State.actEngine, hp, ha, he]

/-- The idle engine's second part, its head not MISSED: a change of the track that reads nothing of the programme's state. -/
theorem stepIdle_of_not_missed (s : State) (p : ProgSlot) (t : TrackSlot) (r : Programme) (a : AdTrack) (o : BitVec 32) (tick : Nat)
    (hnot : ∀ h, s.headVerdict p r a tick ≠ some (h, .missed)) : ∃ f, ActsOn p f id ∧
    ∀ q : Programme, q.quietRun = r.quietRun → q.strictRun = r.strictRun →
      (s.setProg p (some q)).stepIdle p t q a o tick = f (s.setProg p (some q)) := by
  have hstep : ∀ {v : Option (AdCue × HeadVerdict)}, s.headVerdict p r a tick = v → ∀ q : Programme, q.quietRun = r.quietRun →
      q.strictRun = r.strictRun → (s.setProg p (some q)).headVerdict p q a tick = v :=
    fun hv q hquiet hstrict => (headVerdict_congr hquiet hstrict _ tick).trans hv
  unfold State.stepIdle
  cases hv : s.headVerdict p r a tick with
  | none => exact ⟨id, actsOn_id, fun q hquiet hstrict => by rw [hstep hv q hquiet hstrict]; rfl⟩
  | some hverdict =>
    obtain ⟨h, verdict⟩ := hverdict
    cases verdict with
    | waits => exact ⟨id, actsOn_id, fun q hquiet hstrict => by rw [hstep hv q hquiet hstrict]; rfl⟩
    | arms => exact ⟨_, actsOn_modAd t AdTrack.armHead, fun q hquiet hstrict => by rw [hstep hv q hquiet hstrict]⟩
    | triggers => exact ⟨_, actsOn_modAd t fun a => a.trigger h, fun q hquiet hstrict => by rw [hstep hv q hquiet hstrict]⟩
    | missed => exact absurd hv (hnot h)

/-- The release's second part, its head not MISSED: the cue that was releasing may be DONE. -/
theorem stepRelease_of_not_missed (s : State) (p : ProgSlot) (t : TrackSlot) (r : Programme) (a : AdTrack) (o : BitVec 32) (tick m : Nat)
    (k : CurrentCue) (hnot : ∀ h, s.headVerdict p r a tick ≠ some (h, .missed)) : ∃ f g, ActsOn p f g ∧
    (g = id ∨ g = Programme.oneDone) ∧ ∀ q : Programme, q.quietRun = r.quietRun → q.strictRun = r.strictRun →
      (s.setProg p (some q)).stepRelease p t q a o tick m k = f (s.setProg p (some q)) := by
  have hstep : ∀ {v : Option (AdCue × HeadVerdict)}, s.headVerdict p r a tick = v → ∀ q : Programme, q.quietRun = r.quietRun →
      q.strictRun = r.strictRun → (s.setProg p (some q)).headVerdict p q a tick = v :=
    fun hv q hquiet hstrict => (headVerdict_congr hquiet hstrict _ tick).trans hv
  have hgoOn := actsOn_goOnRelease (p := p) t m k
  have hcounts : (if m ≤ 1 then Programme.oneDone else id) = id ∨ (if m ≤ 1 then Programme.oneDone else id) = Programme.oneDone := by
    split
    · exact .inr rfl
    · exact .inl rfl
  unfold State.stepRelease
  cases hv : s.headVerdict p r a tick with
  | none => exact ⟨_, _, hgoOn, hcounts, fun q hquiet hstrict => by rw [hstep hv q hquiet hstrict]⟩
  | some hverdict =>
    obtain ⟨h, verdict⟩ := hverdict
    cases verdict with
    | waits => exact ⟨_, _, hgoOn, hcounts, fun q hquiet hstrict => by rw [hstep hv q hquiet hstrict]⟩
    | arms =>
      exact ⟨_, _, (actsOn_modAd t AdTrack.armHead).comp hgoOn, hcounts, fun q hquiet hstrict => by rw [hstep hv q hquiet hstrict]⟩
    | triggers =>
      exact ⟨_, _, (actsOn_modAd t fun a => a.trigger h).comp (actsOn_cueDone k.clip), .inr rfl,
        fun q hquiet hstrict => by rw [hstep hv q hquiet hstrict]⟩
    | missed => exact absurd hv (hnot h)

/-- The second part of a step without a MISSED head changes the record of its programme at most by a cue that is DONE. -/
theorem actEngine_of_not_missed {s : State} (r : Programme) (ha : s.ad? t = some a) (o : BitVec 32) (tick : Nat)
    (hnot : (a.engine = .idle ∨ ∃ m k, a.engine = .release m k) → ∀ h, s.headVerdict p r a tick ≠ some (h, .missed)) :
    ∃ (u : State) (g : Programme → Programme), (g = id ∨ g = Programme.oneDone) ∧
      ∀ q : Programme, q.quietRun = r.quietRun → q.strictRun = r.strictRun →
        (s.setProg p (some q)).actEngine p t o tick = u.setProg p (some (g q)) := by
  have hp : ∀ q, (s.setProg p (some q)).prog p = some q := fun q => by simp
  have had : ∀ q, (s.setProg p (some q)).ad? t = some a := fun q => ha
  cases he : a.engine with
  | idle =>
    obtain ⟨f, hf, hstep⟩ := stepIdle_of_not_missed s p t r a o tick (hnot (.inl he))
    exact ⟨f s, id, .inl rfl, fun q hquiet hstrict => by
      rw [State.actEngine_of_idle (hp q) (had q) he, hstep q hquiet hstrict, hf s q]⟩
  | attack m k =>
    exact ⟨_, id, .inl rfl, fun q _ _ => (State.actEngine_of_attack (hp q) (had q) he o tick).trans (actsOn_modAd (p := p) t _ s q)⟩
  | play n k =>
    obtain ⟨f, g, hf, hg, hstep⟩ := actsOn_goOnPlay (p := p) t a n k s
    exact ⟨f s, g, hg, fun q _ _ => by rw [State.actEngine_of_play (hp q) (had q) he, hstep, hf s q]⟩
  | release m k =>
    obtain ⟨f, g, hf, hg, hstep⟩ := stepRelease_of_not_missed s p t r a o tick m k (hnot (.inr ⟨m, k, he⟩))
    exact ⟨f s, g, hg, fun q hquiet hstrict => by
      rw [State.actEngine_of_release (hp q) (had q) he, hstep q hquiet hstrict, hf s q]⟩

/-- The second part of a step that misses its head, where no cue ends: the record of its programme counts and posts the cue. -/
theorem actEngine_of_missed (ht : s.track t = some x) (hb : x.body = .ad a) (hc : a.cues = h :: behind)
    (hother : ∀ y ∈ behind, y.id ≠ h.id) (hmissed : HeadMissed s p h tick) (o : BitVec 32)
    (he : a.engine = .idle ∨ ∃ m k, a.engine = .release m k ∧ 2 ≤ m) : ∃ u : State, ∀ q : Programme,
      (s.setProg p (some q)).actEngine p t o tick = u.setProg p (some (q.oneMissed t h.id .absent o)) := by
  have hp : ∀ q, (s.setProg p (some q)).prog p = some q := fun q => by simp
  have had : ∀ q, (s.setProg p (some q)).ad? t = some a := fun q => State.ad?_of_ad (s := s.setProg p (some q)) ht hb
  have hmissedOn : ∀ q, HeadMissed (s.setProg p (some q)) p h tick := fun _ => hmissed
  have hwrite : ∀ (y : Track) (q q' : Programme), (((s.setProg p (some q)).setTrack t (some y)).setProg p (some q')).clipFreed p h.clip =
      ((s.setTrack t (some y)).clipFreed p h.clip).setProg p (some q') := by
    intro y q q'
    rw [State.setTrack_setProg, State.setProg_setProg]
    rfl
  rcases he with he | ⟨m, k, he, hm⟩
  · exact ⟨_, fun q => by
      rw [State.actEngine_of_idle (hp q) (had q) he, State.stepIdle_of_missed (hp q) ht hb hc hother (hmissedOn q), hwrite]⟩
  · exact ⟨_, fun q => by
      rw [State.actEngine_of_release (hp q) (had q) he, State.stepRelease_of_missed_more (hp q) ht hb hc hother (hmissedOn q) o he hm,
        hwrite]⟩

/-- The second part of a step that misses its head and ends the release. -/
theorem actEngine_of_missed_last (ht : s.track t = some x) (hb : x.body = .ad a) (hc : a.cues = h :: behind)
    (hother : ∀ y ∈ behind, y.id ≠ h.id) (hmissed : HeadMissed s p h tick) (o : BitVec 32) {m : Nat} {k : CurrentCue}
    (he : a.engine = .release m k) (hm : m ≤ 1) : ∃ u : State, ∀ q : Programme,
      (s.setProg p (some q)).actEngine p t o tick = u.setProg p (some (q.oneMissed t h.id .absent o).oneDone) := by
  have hp : ∀ q, (s.setProg p (some q)).prog p = some q := fun q => by simp
  have had : ∀ q, (s.setProg p (some q)).ad? t = some a := fun q => State.ad?_of_ad (s := s.setProg p (some q)) ht hb
  have hmissedOn : ∀ q, HeadMissed (s.setProg p (some q)) p h tick := fun _ => hmissed
  have hwrite : ∀ (y : Track) (q q' : Programme),
      ((((s.setProg p (some q)).setTrack t (some y)).setProg p (some q')).clipFreed p h.clip).clipFreed p k.clip =
      (((s.setTrack t (some y)).clipFreed p h.clip).clipFreed p k.clip).setProg p (some q') := by
    intro y q q'
    rw [State.setTrack_setProg, State.setProg_setProg]
    rfl
  exact ⟨_, fun q => by
    rw [State.actEngine_of_release (hp q) (had q) he, State.stepRelease_of_missed_last (hp q) ht hb hc hother (hmissedOn q) o he hm,
      hwrite]⟩

end

end Sys2Proof.Machine
end

section
/-! PROOF. A step of an AD track: a head that waits or arms, overdue cues, and the step that halts. -/

namespace Sys2Proof.Machine

section
variable {s : State} {w : AudioWork} {t : TrackSlot} {rest : List TrackSlot} {r : Programme} {x : Track} {a : AdTrack} {h : AdCue}
  {behind : List AdCue}

/-- The head arms, and the engine goes on (R106, R108, R111). -/
theorem AtStep.exec_of_arms (hat : AtStep s w t rest r x a) (hc : a.cues = h :: behind) (hcome : h.state = .armed ∨ h.earliest ≤ w.tick)
    (hbefore : w.tick < h.latest) (hnot : s.clipReady w.copy.prog h.clip = false ∨ ¬ h.QuietEnough r) :
    let armed := { a with cues := { h with state := .armed } :: behind }
    (a.engine = .idle → exec .eventStep s = .next (s.stepped w t rest x armed)) ∧
    (∀ m k, a.engine = .release m k → 2 ≤ m →
      exec .eventStep s = .next (s.stepped w t rest x { armed with engine := .release (m - 1) k })) ∧
    (∀ k, a.engine = .release 1 k → exec .eventStep s
      = .next (((s.stepped w t rest x armed.atRest).setProg w.copy.prog (some r.oneDone)).clipFreed w.copy.prog k.clip)) := by
  intro armed
  have hverdict : (s.wentOn w rest).headVerdict w.copy.prog r a w.tick = some (h, .arms) := by
    rw [State.headVerdict_of_head hc, AdCue.verdict_arms hcome hbefore (by exact hnot)]
  have harm : (s.wentOn w rest).modAd t AdTrack.armHead = (s.wentOn w rest).setTrack t (some { x with body := .ad armed }) := by
    rw [State.modAd_of_ad hat.1.track hat.1.body, AdTrack.armHead_eq hc]
  have htrack : ((s.wentOn w rest).setTrack t (some { x with body := .ad armed })).track t = some { x with body := .ad armed } := by simp
  have hprog : ((s.wentOn w rest).setTrack t (some { x with body := .ad armed })).prog w.copy.prog = some r := hat.1.prog
  refine ⟨fun he => ?_, fun m k he hm => ?_, fun k he => ?_⟩
  · rw [hat.exec_of_idle he, State.stepIdle, hverdict]
    dsimp only
    rw [harm]
    rfl
  · rw [hat.exec_of_release he, State.stepRelease, hverdict]
    dsimp only
    rw [harm, State.goOnRelease_of_more htrack rfl hm, State.setTrack_setTrack]
    rfl
  · rw [hat.exec_of_release he, State.stepRelease, hverdict]
    dsimp only
    rw [harm, State.goOnRelease_of_last hprog htrack rfl (Nat.le_refl 1), State.setTrack_setTrack]
    rfl

/-- The head is MISSED, and the engine goes on (R108, R111, R112). -/
theorem AtStep.exec_of_missed (hat : AtStep s w t rest r x a) (hc : a.cues = h :: behind) (hmissed : HeadMissed s w.copy.prog h w.tick)
    (hother : ∀ y ∈ behind, y.id ≠ h.id) :
    let p := w.copy.prog
    let gone := { a with cues := behind }
    let r' := r.oneMissed t h.id .absent w.copy.ordinal
    (a.engine = .idle → exec .eventStep s = .next (((s.stepped w t rest x gone).setProg p (some r')).clipFreed p h.clip)) ∧
    (∀ m k, a.engine = .release m k → 2 ≤ m → exec .eventStep s = .next
      (((s.stepped w t rest x { gone with engine := .release (m - 1) k }).setProg p (some r')).clipFreed p h.clip)) ∧
    (∀ k, a.engine = .release 1 k → exec .eventStep s = .next
      (((s.stepped w t rest x gone.atRest).setProg p (some r'.oneDone)).clipFreed p h.clip |>.clipFreed p k.clip)) := by
  intro p gone r'
  have hmissedOn : HeadMissed (s.wentOn w rest) w.copy.prog h w.tick := hmissed
  refine ⟨fun he => ?_, fun m k he hm => ?_, fun k he => ?_⟩
  · rw [hat.exec_of_idle he, State.stepIdle_of_missed hat.1.prog hat.1.track hat.1.body hc hother hmissedOn]
    rfl
  · rw [hat.exec_of_release he, State.stepRelease_of_missed_more hat.1.prog hat.1.track hat.1.body hc hother hmissedOn _ he hm]
    rfl
  · rw [hat.exec_of_release he,
      State.stepRelease_of_missed_last hat.1.prog hat.1.track hat.1.body hc hother hmissedOn _ he (Nat.le_refl 1)]
    rfl

/-! ### Overdue cues and the step that halts -/

/-- The part after the first part of a step, which has missed the overdue cues behind the head (R105). -/
def State.afterOverdue (s : State) (w : AudioWork) (t : TrackSlot) (r : Programme) (x : Track) (a : AdTrack) (h : AdCue)
    (behind : List AdCue) : State :=
  let late := behind.filter fun c => decide (c.latest ≤ w.tick)
  let s₁ := (s.setTrack t (some { x with body := .ad { a with cues := h :: behind.filter fun c => decide (w.tick < c.latest) } })).setProg
    w.copy.prog (some (late.foldl (fun r c => r.oneMissed t c.id .late w.copy.ordinal) r))
  { s₁ with clips := s.clips.filter fun c => !(decide (c.prog = w.copy.prog) && decide (c.id ∈ late.map (·.clip)) &&
    !s₁.references w.copy.prog c.id) }

/-- A step that is reached is its second part on what the first leaves. -/
theorem ReachesStep.exec_afterOverdue (hr : ReachesStep s w t rest r x a) (hc : a.cues = h :: behind) (hn : (a.cues.map (·.id)).Nodup) :
    exec .eventStep s = .next (((s.afterOverdue w t r x a h behind).wentOn w rest).actEngine w.copy.prog t w.copy.ordinal w.tick) := by
  obtain ⟨hmiss, hcues⟩ := hr.missOverdue hc hn w.copy.ordinal
  have hleft : s.allMissed w.copy.prog t r x a .late w.copy.ordinal (behind.filter fun c => decide (c.latest ≤ w.tick)) =
      s.afterOverdue w t r x a h behind := by
    simp only [State.allMissed, hcues]
    rfl
  rw [hleft] at hmiss
  exact hr.eventStep.trans (congrArg (fun u => Host.Outcome.next (State.actEngine u w.copy.prog t w.copy.ordinal w.tick)) hmiss)

theorem State.afterOverdue_track : (s.afterOverdue w t r x a h behind).track t =
    some { x with body := .ad { a with cues := h :: behind.filter fun c => decide (w.tick < c.latest) } } :=
  (State.setTrack_track s t t _).trans (if_pos rfl)

theorem State.afterOverdue_prog : (s.afterOverdue w t r x a h behind).prog w.copy.prog =
    some ((behind.filter fun c => decide (c.latest ≤ w.tick)).foldl (fun r c => r.oneMissed t c.id .late w.copy.ordinal) r) := by
  show ((s.setTrack t _).setProg _ _).prog _ = _
  simp

/-- After the first part the step is reached again, with nothing overdue, while the programme is not HALTED. -/
theorem ReachesStep.afterOverdue (hr : ReachesStep s w t rest r x a) {q : Programme} (hq : q.state ≠ .halted) :
    AtStep ((s.afterOverdue w t r x a h behind).setProg w.copy.prog (some q)) w t rest q
      { x with body := .ad { a with cues := h :: behind.filter fun c => decide (w.tick < c.latest) } }
      { a with cues := h :: behind.filter fun c => decide (w.tick < c.latest) } := by
  obtain ⟨haudio, htoRender, hrendered, htoStep, -, -, -, -⟩ := hr
  refine ⟨⟨haudio, htoRender, hrendered, htoStep, by simp, hq, ?_, rfl⟩, fun c hc => ?_⟩
  · exact State.afterOverdue_track (r := r)
  · exact of_decide_eq_true (List.mem_filter.mp hc).2

end

/-- The record after a step in which at most a cue is DONE, in HALTED as in another state. -/
theorem withState_halted {g : Programme → Programme} (hg : g = id ∨ g = Programme.oneDone) {q : Programme} (hq : q.state = .halted)
    (state : ProgState) : ({ g { q with state := state } with state := .halted } : Programme) = g q := by
  rcases hg with rfl | rfl
  · show ({ q with state := .halted } : Programme) = q
    rw [← hq]
  · show ({ q.oneDone with state := .halted } : Programme) = q.oneDone
    rw [show q.oneDone = { q.oneDone with state := q.state } from rfl, hq]

/-- A verdict that misses the head says that the head is MISSED (R108). -/
theorem HeadMissed.of_headVerdict {s : State} {p : ProgSlot} {r : Programme} {a : AdTrack} {h k : AdCue} {behind : List AdCue} {tick : Nat}
    (hc : a.cues = h :: behind) (hv : s.headVerdict p r a tick = some (k, .missed)) : HeadMissed s p h tick := by
  rw [State.headVerdict_of_head hc, Option.some.injEq, Prod.mk.injEq] at hv
  have hmissed := hv.2
  unfold AdCue.verdict at hmissed
  split_ifs at hmissed with hwaits hfires hbefore hready
  refine ⟨?_, Nat.le_of_not_lt hbefore, Bool.eq_false_iff.mpr hready⟩
  cases hstate : h.state with
  | armed => exact .inl rfl
  | pending => exact .inr (Nat.le_of_not_lt fun hlt => hwaits ⟨hstate, hlt⟩)

/-- The second part of a step on a HALTED record, against the same on the record in another state: the same but for what a MISSED head
posts. -/
theorem actEngine_in_halted {s : State} {p : ProgSlot} {t : TrackSlot} {r : Programme} {x : Track} {a : AdTrack} {h : AdCue}
    {behind : List AdCue} (ht : s.track t = some x) (hb : x.body = .ad a) (hc : a.cues = h :: behind) (hother : ∀ y ∈ behind, y.id ≠ h.id)
    (o : BitVec 32) (tick : Nat) (hr : r.state = .halted) (state : ProgState) :
    let after := fun q : Programme => (s.setProg p (some q)).actEngine p t o tick
    let u := after { r with state := state }
    ∃ r₂, u.prog p = some r₂ ∧
      (((∃ m k, a.engine = .attack m k) ∨ (∃ n k, a.engine = .play n k) ∨ s.clipReady p h.clip = true ∨ tick < h.latest ∨
          (h.state = .pending ∧ tick < h.earliest)) → after r = u.setProg p (some { r₂ with state := .halted })) ∧
      (HeadMissed s p h tick →
        (a.engine = .idle ∨ (∃ m k, a.engine = .release m k ∧ 2 ≤ m) →
          after r = u.setProg p (some (r.oneMissed t h.id .absent o))) ∧
        (∀ k, a.engine = .release 1 k → after r = u.setProg p (some (r.oneMissed t h.id .absent o).oneDone))) := by
  intro after u
  have hcontra : HeadMissed s p h tick → ¬ (s.clipReady p h.clip = true ∨ tick < h.latest ∨ (h.state = .pending ∧ tick < h.earliest)) := by
    rintro ⟨hcome, hdue, hready⟩ (hr | hl | hw)
    · cases hready.symm.trans hr
    · exact Nat.not_lt_of_le hdue hl
    · exact AdCue.not_waiting hcome hw
  by_cases hmisses : HeadMissed s p h tick ∧ (a.engine = .idle ∨ ∃ m k, a.engine = .release m k)
  · obtain ⟨hmissed, hengine⟩ := hmisses
    have hno : ¬ ((∃ m k, a.engine = .attack m k) ∨ (∃ n k, a.engine = .play n k) ∨ s.clipReady p h.clip = true ∨ tick < h.latest ∨
        (h.state = .pending ∧ tick < h.earliest)) := by
      rintro (⟨m, k, he⟩ | ⟨n, k, he⟩ | hcond)
      · rcases hengine with he' | ⟨m', k', he'⟩ <;> cases he.symm.trans he'
      · rcases hengine with he' | ⟨m', k', he'⟩ <;> cases he.symm.trans he'
      · exact hcontra hmissed hcond
    by_cases hmore : a.engine = .idle ∨ ∃ m k, a.engine = .release m k ∧ 2 ≤ m
    · obtain ⟨v, hv⟩ := actEngine_of_missed ht hb hc hother hmissed o hmore
      have hu : u = v.setProg p _ := hv _
      refine ⟨_, by rw [hu, State.setProg_prog, if_pos rfl], fun h => absurd h hno, fun _ => ⟨fun _ => ?_, fun k he => ?_⟩⟩
      · rw [hu, State.setProg_setProg]
        exact hv r
      · rcases hmore with he' | ⟨m', k', he', hm⟩
        · cases he.symm.trans he'
        · cases he.symm.trans he'
          omega
    · obtain ⟨m, k, he, hm⟩ : ∃ m k, a.engine = .release m k ∧ m ≤ 1 := by
        rcases hengine with he | ⟨m, k, he⟩
        · exact absurd (.inl he) hmore
        · exact ⟨m, k, he, Nat.le_of_not_lt fun hm => hmore (.inr ⟨m, k, he, hm⟩)⟩
      obtain ⟨v, hv⟩ := actEngine_of_missed_last ht hb hc hother hmissed o he hm
      have hu : u = v.setProg p _ := hv _
      refine ⟨_, by rw [hu, State.setProg_prog, if_pos rfl], fun h => absurd h hno, fun _ => ⟨fun h => absurd h hmore, fun k he => ?_⟩⟩
      rw [hu, State.setProg_setProg]
      exact hv r
  · have hnot : (a.engine = .idle ∨ ∃ m k, a.engine = .release m k) → ∀ k, s.headVerdict p r a tick ≠ some (k, .missed) :=
      fun hengine k hv => hmisses ⟨.of_headVerdict hc hv, hengine⟩
    obtain ⟨v, g, hg, hv⟩ := actEngine_of_not_missed (p := p) r (State.ad?_of_ad ht hb) o tick hnot
    have hu : u = v.setProg p (some (g { r with state := state })) := hv _ rfl rfl
    refine ⟨_, by rw [hu, State.setProg_prog, if_pos rfl], fun _ => ?_, fun hmissed => ⟨fun he => ?_, fun k he => ?_⟩⟩
    · rw [hu, State.setProg_setProg, withState_halted hg hr]
      exact hv r rfl rfl
    · refine absurd ⟨hmissed, he.imp_right ?_⟩ hmisses
      rintro ⟨m, k, he, -⟩
      exact ⟨m, k, he⟩
    · exact absurd ⟨hmissed, .inr ⟨1, k, he⟩⟩ hmisses

/-- Settles O37: the first part of a step leaves a state in which the second acts alike in HALTED and in the state before, but for
what a MISSED head posts. -/
theorem headWaitsOrIsMissedAndHaltStopsSteps : Obligations.HeadWaitsOrIsMissedAndHaltStopsSteps := by
  unfold Obligations.HeadWaitsOrIsMissedAndHaltStopsSteps
  refine ⟨?head, ?overdue, ?halted⟩
  case head =>
    intro s w t rest r x a h behind hat hc p
    refine ⟨fun hpending hbefore he => ?_, fun hcome hbefore hnot => hat.exec_of_arms hc hcome hbefore hnot,
      fun hcome hdue hready hother => hat.exec_of_missed hc ⟨hcome, hdue, hready⟩ hother⟩
    rw [hat.exec_of_idle he, stepIdle_of_waits (AdTrack.headWaits_of_head hc hpending hbefore), hat.1.stepped_self]
  case overdue =>
    intro s w t rest r x a h behind hr hc hn p late left r₁ s₁ s₂
    have hexec : exec .eventStep s = .next ((s₂.wentOn w rest).actEngine p t w.copy.ordinal w.tick) := hr.exec_afterOverdue hc hn
    have hprog : s₂.prog p = some r₁ := State.afterOverdue_prog (s := s)
    have hat : ∀ q : Programme, q.state ≠ .halted → AtStep (s₂.setProg p (some q)) w t rest q { x with body := .ad left } left :=
      fun q hq => hr.afterOverdue hq
    refine ⟨fun hrunning => ?_, fun hhalted => ?_⟩
    · have hself := hat r₁ hrunning
      rw [State.setProg_of_eq hprog] at hself
      exact hexec.trans hself.eventStep.symm
    · have hother : ∀ y ∈ behind.filter fun c => decide (w.tick < c.latest), y.id ≠ h.id := by
        intro y hy heq
        rw [hc, List.map_cons, List.nodup_cons] at hn
        exact hn.1 (heq ▸ List.mem_map_of_mem (List.mem_of_mem_filter hy))
      have hstep := (hat { r₁ with state := r.state } hr.2.2.2.2.2.1).eventStep
      have hself : (s₂.wentOn w rest).setProg p (some r₁) = s₂.wentOn w rest := State.setProg_of_eq hprog
      rw [← hself] at hexec
      obtain ⟨r₂, hprog₂, hsame, hmissed⟩ := actEngine_in_halted (s := s₂.wentOn w rest) (a := left) (x := { x with body := .ad left })
        (State.afterOverdue_track (r := r)) rfl rfl hother w.copy.ordinal w.tick hhalted r.state
      refine ⟨_, r₂, hstep, hprog₂, fun h => hexec.trans (congrArg _ (hsame h)), fun hcome hdue hready => ?_⟩
      obtain ⟨hmore, hlast⟩ := hmissed ⟨hcome, hdue, hready⟩
      exact ⟨fun he => hexec.trans (congrArg _ (hmore he)), fun k he => hexec.trans (congrArg _ (hlast k he))⟩
  case halted =>
    intro s w t rest r haudio htoRender hrendered htoStep hp hr
    change execEventStep s = _
    have hhalted : s.haltedAt w.copy.prog = true := by
      rw [State.haltedAt, hp, Option.any_some, hr]
      rfl
    rw [← continueAudio_leftToStep htoRender hrendered rest]
    simp only [execEventStep, haudio, htoRender, hrendered, htoStep, hhalted, List.isEmpty_nil, Bool.not_true, Option.isSome_none,
      Bool.or_false, Bool.false_eq_true, if_false, if_true]

end Sys2Proof.Machine
end

section
/-! PROOF. The segment cutter: the entries of one track's SUBSEG and their order. -/

namespace Sys2Proof.Machine

/-! ### The order of a track's entries -/

/-- The order of R59, where neither candidate need come before the other. -/
def Candidate.NotAfter (y z : Candidate) : Prop :=
  y.a < z.a ∨ (y.a = z.a ∧ ((y.own = true ∧ z.own = false) ∨ (y.own = z.own ∧ y.cue.id ≤ z.cue.id)))

theorem Candidate.NotAfter.trans {x y z : Candidate} (hxy : x.NotAfter y) (hyz : y.NotAfter z) : x.NotAfter z := by
  unfold Candidate.NotAfter at *
  rcases hxy with hlt | ⟨ha, hxy⟩
  · rcases hyz with hlt' | ⟨ha', -⟩
    · exact .inl (hlt.trans hlt')
    · exact .inl (ha' ▸ hlt)
  · rcases hyz with hlt' | ⟨ha', hyz⟩
    · exact .inl (ha ▸ hlt')
    · refine .inr ⟨ha.trans ha', ?_⟩
      rcases hxy with ⟨hx, hy⟩ | ⟨hown, hid⟩
      · rcases hyz with ⟨hy', -⟩ | ⟨hown', -⟩
        · cases hy.symm.trans hy'
        · exact .inl ⟨hx, hown' ▸ hy⟩
      · rcases hyz with ⟨hy, hz⟩ | ⟨hown', hid'⟩
        · exact .inl ⟨hown.trans hy, hz⟩
        · exact .inr ⟨hown.trans hown', hid.trans hid'⟩

theorem Candidate.before_iff (y z : Candidate) : y.before z = true ↔
    y.a < z.a ∨ (y.a = z.a ∧ ((y.own = true ∧ z.own = false) ∨ (y.own = z.own ∧ y.cue.id < z.cue.id))) := by
  simp only [Candidate.before, Bool.or_eq_true, Bool.and_eq_true, decide_eq_true_eq, beq_iff_eq, Bool.not_eq_true']

theorem Candidate.notAfter_of_before {y z : Candidate} (h : y.before z = true) : y.NotAfter z := by
  rcases (y.before_iff z).mp h with hlt | ⟨ha, hown | ⟨hown, hid⟩⟩
  · exact .inl hlt
  · exact .inr ⟨ha, .inl hown⟩
  · exact .inr ⟨ha, .inr ⟨hown, hid.le⟩⟩

theorem Candidate.notAfter_of_not_before {y z : Candidate} (h : y.before z = false) : z.NotAfter y := by
  have hnot : ¬ _ := fun hb => Bool.eq_false_iff.mp h ((y.before_iff z).mpr hb)
  push Not at hnot
  obtain ⟨ha, hsame⟩ := hnot
  rcases ha.lt_or_eq with hlt | heq
  · exact .inl hlt
  · obtain ⟨hown, hid⟩ := hsame heq.symm
    refine .inr ⟨heq, ?_⟩
    by_cases hyz : y.own = z.own
    · exact .inr ⟨hyz.symm, hid hyz⟩
    · cases hy : y.own with
      | true => exact absurd (Bool.eq_true_of_not_eq_false (hown hy)) fun hz => hyz (hy.trans hz.symm)
      | false => exact .inl ⟨Bool.eq_true_of_not_eq_false fun hz => hyz (hy.trans hz.symm), rfl⟩

theorem sortBy_before_pairwise (l : List Candidate) : (sortBy Candidate.before l).Pairwise Candidate.NotAfter := by
  induction l with
  | nil => exact .nil
  | cons y l ih =>
    exact insertBy_pairwise _ Candidate.NotAfter (fun _ _ _ => Candidate.NotAfter.trans) y _ (fun _ _ => Candidate.notAfter_of_before)
      (fun _ _ => Candidate.notAfter_of_not_before) ih

/-! ### What the cutter decides for one track, by its definitions -/

theorem StyleTable.resolve_of_some {table : StyleTable} {i : Nat} {e : Style} (h : table.entries[i]? = some e) : table.resolve i = (e, false) := by
  rw [StyleTable.resolve, h]

theorem StyleTable.resolve_of_none {table : StyleTable} {i : Nat} {e : Style} (h : table.entries[i]? = none)
    (hfirst : table.entries.head? = some e) : table.resolve i = (e, true) := by
  rw [StyleTable.resolve, h]
  simp only [List.headD_eq_head?_getD, hfirst, Option.getD_some]

theorem StyleTable.isLoaded_iff (table : StyleTable) : table.isLoaded = true ↔ ∃ es, table = .loaded es := by
  cases table with
  | default => exact ⟨fun h => (by cases h), fun ⟨_, h⟩ => (by cases h)⟩
  | loaded es => exact ⟨fun _ => ⟨es, rfl⟩, fun _ => rfl⟩

theorem capAt_eq (x : Option Nat) (tick : Nat) : capAt x tick = (x.map (min tick)).getD tick := by
  cases x with
  | none => rfl
  | some x => exact Nat.min_comm x tick

theorem SubOf.fillWindow_eq (x : SubOf) (m : Mark) : x.fillWindow m =
    (if x.track.state = .concealing then x.sub.window else none).filter fun w => max w.f m.s < (w.x.map (min m.e)).getD m.e := by
  have hmeets : (fun w : Window => w.meets m.s m.e) = fun w => decide (max w.f m.s < (w.x.map (min m.e)).getD m.e) := by
    funext w
    rw [Window.meets, Window.partStart, Window.partEnd, capAt_eq]
  rw [SubOf.fillWindow, hmeets]
  split <;> rfl

theorem SubOf.meets_of_fillWindow {x : SubOf} {m : Mark} {w : Window} (h : x.fillWindow m = some w) : w.partStart m.s < w.partEnd m.e := by
  rw [SubOf.fillWindow] at h
  split at h
  · exact of_decide_eq_true (Option.filter_eq_some_iff.mp h).2
  · cases h

/-- The track is ACTIVE and a SUB track. -/
def Track.activeSub? (y : Track) : Option SubTrack := if y.state = .active then y.sub? else none

theorem State.fillingReference_eq (s : State) (x : SubOf) : s.fillingReference x = (x.sub.reference.bind s.track).bind Track.activeSub? := by
  unfold State.fillingReference
  cases x.sub.reference with
  | none => rfl
  | some t =>
    simp only [Option.bind_some]
    cases s.track t <;> rfl

theorem State.sub?_of_fillingReference {s : State} {x : SubOf} {ref : SubTrack} (h : s.fillingReference x = some ref) :
    ∃ t, x.sub.reference = some t ∧ s.sub? t = some ref := by
  rw [State.fillingReference_eq] at h
  obtain ⟨y, hy, hsub⟩ := Option.bind_eq_some_iff.mp h
  obtain ⟨t, ht, hty⟩ := Option.bind_eq_some_iff.mp hy
  refine ⟨t, ht, ?_⟩
  rw [Track.activeSub?] at hsub
  split at hsub
  · rw [State.sub?, hty]
    exact hsub
  · cases hsub

section
variable {s : State} {x : SubOf} {m : Mark}

theorem State.concealmentOf_of_some {w : Window} {ref : SubTrack} (hw : x.fillWindow m = some w) (href : s.fillingReference x = some ref) :
    s.concealmentOf x m = (concealCandidates w m.s m.e ref.cues, ref.styles) := by
  rw [State.concealmentOf, hw, href]

theorem State.concealmentOf_of_no_window (hw : x.fillWindow m = none) : s.concealmentOf x m = ([], x.sub.styles) := by
  rw [State.concealmentOf, hw]

theorem State.concealmentOf_of_no_reference (href : s.fillingReference x = none) : s.concealmentOf x m = ([], x.sub.styles) := by
  rw [State.concealmentOf, href]
  cases x.fillWindow m <;> rfl

/-- The entry that a candidate makes for a track (R61, R62). -/
def State.entryIn (s : State) (x : SubOf) (m : Mark) (y : Candidate) : Entry := y.entry m.s (s.tableFor x m y)

theorem State.entryIn_conceal {w : Window} {ref : SubTrack} (hw : x.fillWindow m = some w) (href : s.fillingReference x = some ref)
    (c : SubCue) : s.entryIn x m (concealCandidate w m.s m.e c) = {
      id := c.id
      relStart := max c.start (max w.f m.s) - m.s
      relEnd := min c.stop ((w.x.map (min m.e)).getD m.e) - m.s
      region := c.region
      style := (ref.styles.resolve c.style).1
      flags := ⟨decide (max c.start w.f < m.s), decide (m.e < (w.x.map (min c.stop)).getD c.stop), c.trimmed, c.forced, true,
        (ref.styles.resolve c.style).2⟩
      lines := c.lines } := by
  have htable : s.tableFor x m (concealCandidate w m.s m.e c) = ref.styles := by
    show (s.concealmentOf x m).2 = _
    rw [State.concealmentOf_of_some hw href]
  rw [State.entryIn, htable, ← capAt_eq, ← capAt_eq]
  rfl

/-! ### The merged candidates -/

/-- A candidate fills a part of the segment that is not empty. -/
def Candidate.InSegment (y : Candidate) (m : Mark) : Prop := m.s ≤ y.a ∧ y.a < y.z ∧ y.z ≤ m.e

theorem ownCandidate_inSegment (hm : m.s < m.e) {c : SubCue} (hc : c.start < c.stop) (he : c.start < m.e) (hs : m.s < c.stop) :
    (ownCandidate m.s m.e c).InSegment m := by
  simp only [Candidate.InSegment, ownCandidate]
  omega

theorem concealCandidate_inSegment {w : Window} (hw : w.partStart m.s < w.partEnd m.e) {c : SubCue} (hc : c.start < c.stop)
    (he : c.start < w.partEnd m.e) (hs : w.partStart m.s < c.stop) : (concealCandidate w m.s m.e c).InSegment m := by
  have hstart : m.s ≤ w.partStart m.s := Nat.le_max_right ..
  have hend : w.partEnd m.e ≤ m.e := by
    rw [Window.partEnd, capAt_eq]
    cases w.x with
    | none => exact Nat.le_refl _
    | some x => exact Nat.min_le_left ..
  simp only [Candidate.InSegment, concealCandidate]
  omega

theorem State.mergedOf_inSegment (hm : m.s < m.e) (hown : ∀ c ∈ x.sub.cues, c.start < c.stop)
    (href : ∀ b t, x.sub.reference = some t → s.sub? t = some b → ∀ c ∈ b.cues, c.start < c.stop) {y : Candidate}
    (hy : y ∈ s.mergedOf x m) : y.InSegment m := by
  rcases List.mem_append.mp ((sortBy_perm _ _).mem_iff.mp hy) with hy | hy
  · obtain ⟨c, hc, rfl⟩ := List.mem_map.mp hy
    obtain ⟨hmem, hover⟩ := List.mem_filter.mp hc
    obtain ⟨he, hs⟩ := Bool.and_eq_true_iff.mp hover
    exact ownCandidate_inSegment hm (hown c hmem) (of_decide_eq_true he) (of_decide_eq_true hs)
  · cases hw : x.fillWindow m with
    | none => cases (State.concealmentOf_of_no_window (s := s) hw) ▸ hy
    | some w =>
      cases hr : s.fillingReference x with
      | none => cases (State.concealmentOf_of_no_reference (m := m) hr) ▸ hy
      | some ref =>
        rw [State.concealmentOf_of_some hw hr] at hy
        obtain ⟨c, hc, rfl⟩ := List.mem_map.mp hy
        obtain ⟨hmem, hover⟩ := List.mem_filter.mp hc
        obtain ⟨he, hs⟩ := Bool.and_eq_true_iff.mp hover
        obtain ⟨t, ht, hsub⟩ := State.sub?_of_fillingReference hr
        exact concealCandidate_inSegment (SubOf.meets_of_fillWindow hw) (href ref t ht hsub c hmem) (of_decide_eq_true he)
          (of_decide_eq_true hs)

/-- The order of R59 on entries, from that on candidates of the segment. -/
theorem State.entryIn_order {y z : Candidate} (hy : y.InSegment m) (hz : z.InSegment m) (h : y.NotAfter z) :
    let e := s.entryIn x m y
    let e' := s.entryIn x m z
    e.relStart < e'.relStart ∨ (e.relStart = e'.relStart ∧ ((e.flags.concealed = false ∧ e'.flags.concealed = true) ∨
      (e.flags.concealed = e'.flags.concealed ∧ e.id ≤ e'.id))) := by
  obtain ⟨hy, -, -⟩ := hy
  obtain ⟨hz, -, -⟩ := hz
  rcases h with hlt | ⟨ha, ⟨hyown, hzown⟩ | ⟨hown, hid⟩⟩
  · exact .inl (Nat.sub_lt_sub_right hy hlt)
  · exact .inr ⟨congrArg (· - m.s) ha, .inl ⟨congrArg not hyown, congrArg not hzown⟩⟩
  · exact .inr ⟨congrArg (· - m.s) ha, .inr ⟨congrArg not hown, hid⟩⟩

theorem State.cutTrack_entries : (s.cutTrack m x).seg.entries = ((s.mergedOf x m).take 24).map (s.entryIn x m) := rfl

theorem State.cutTrack_kept : (s.cutTrack m x).kept = ((s.cutTrack m x).seg.entries.filter fun e => !e.flags.concealed).map (·.id) := by
  have hown : ((fun e : Entry => !e.flags.concealed) ∘ s.entryIn x m) = Candidate.own := by
    funext y
    exact Bool.not_not y.own
  rw [State.cutTrack_entries, List.filter_map, hown, List.map_map]
  rfl

end

/-- Settles O26, by what the merged candidates are: a sorted arrangement of the own and the concealment candidates. -/
theorem entriesOfACutLieInTheSegmentInOrder : Obligations.EntriesOfACutLieInTheSegmentInOrder := by
  unfold Obligations.EntriesOfACutLieInTheSegmentInOrder
  refine ⟨rfl, fun _ => rfl, fun _ _ _ => StyleTable.resolve_of_some, fun _ _ _ => StyleTable.resolve_of_none, ?_⟩
  intro s m x hm hcues hrefCues cut u own able before windowed concealed
  have hwindowed : x.fillWindow m = windowed := x.fillWindow_eq m
  have hable : s.fillingReference x = able := s.fillingReference_eq x
  have hown : (ownCandidates m.s m.e x.sub.cues).map (s.entryIn x m) = own := List.map_map
  have hconcealed : (s.concealmentOf x m).1.map (s.entryIn x m) = concealed := by
    simp only [concealed]
    rw [← hwindowed, ← hable]
    cases hw : x.fillWindow m with
    | none => rw [State.concealmentOf_of_no_window hw]; rfl
    | some w =>
      cases hr : s.fillingReference x with
      | none => rw [State.concealmentOf_of_no_reference hr]; rfl
      | some ref =>
        rw [State.concealmentOf_of_some hw hr, concealCandidates, List.map_map]
        simp only [Window.partEnd, Window.partStart, capAt_eq]
        exact List.map_congr_left fun c _ => State.entryIn_conceal hw hr c
  have hperm : ((s.mergedOf x m).map (s.entryIn x m)).Perm (own ++ concealed) := by
    rw [← hown, ← hconcealed, ← List.map_append]
    exact (sortBy_perm _ _).map _
  have hlength : (s.mergedOf x m).length = own.length + concealed.length := by
    rw [← List.length_append, ← hperm.length_eq, List.length_map]
  have hwhole : u.entries ++ ((s.mergedOf x m).drop 24).map (s.entryIn x m) = (s.mergedOf x m).map (s.entryIn x m) := by
    rw [State.cutTrack_entries, ← List.map_append, List.take_append_drop]
  refine ⟨⟨((s.mergedOf x m).drop 24).map (s.entryIn x m), hwhole ▸ hperm, ?_, ?_⟩, ?_, ?_, State.cutTrack_kept, ?_, ?_,
    x.sub.styles.isLoaded_iff, rfl, rfl, rfl, rfl, rfl, rfl⟩
  · rw [List.length_map, List.length_drop]
    rfl
  · rw [hwhole, List.pairwise_map]
    refine (List.Pairwise.imp_of_mem ?_ (sortBy_before_pairwise _))
    intro y z hy hz
    exact State.entryIn_order (State.mergedOf_inSegment hm hcues hrefCues hy) (State.mergedOf_inSegment hm hcues hrefCues hz)
  · show (((s.mergedOf x m).take 24).map _).length = _
    rw [List.length_map, List.length_take, hlength]
  · intro e he
    obtain ⟨y, hy, rfl⟩ := List.mem_map.mp he
    obtain ⟨hs, hlt, hz⟩ := State.mergedOf_inSegment hm hcues hrefCues (List.mem_of_mem_take hy)
    exact ⟨Nat.sub_lt_sub_right hs hlt, Nat.sub_le_sub_right hz _⟩
  · rw [← hlength]
    exact decide_eq_true_iff
  · show (_ && _) = true ↔ _
    rw [hwindowed, hable, Bool.and_eq_true, Option.isSome_iff_ne_none, Option.isNone_iff_eq_none]

end Sys2Proof.Machine
end

section
/-! PROOF. The segment cutter: the take. -/

namespace Sys2Proof.Machine

/-! ### The selected tracks and their parts -/

/-- The SUB track in a slot with its slot. -/
def State.subAt (s : State) (t : TrackSlot) : Option SubOf := (s.track t).bind fun x => x.sub?.map fun b => ⟨t, x, b⟩

theorem State.subAt_eq_some {s : State} {t : TrackSlot} {y : SubOf} :
    s.subAt t = some y ↔ y.slot = t ∧ s.track t = some y.track ∧ y.track.sub? = some y.sub := by
  simp only [State.subAt, Option.bind_eq_some_iff, Option.map_eq_some_iff]
  constructor
  · rintro ⟨x, hx, b, hb, rfl⟩
    exact ⟨rfl, hx, hb⟩
  · rintro ⟨rfl, hx, hb⟩
    exact ⟨_, hx, _, hb, rfl⟩

/-- A slot holds a SUB track in ACTIVE or CONCEALING (R57). -/
def State.selects (s : State) (t : TrackSlot) : Bool := (s.track t).any fun x => x.state != .closing && x.sub?.isSome

theorem State.selects_iff {s : State} {t : TrackSlot} : s.selects t = true ↔ ∃ y, s.subAt t = some y ∧ y.track.state ≠ .closing := by
  simp only [State.selects, Option.any_eq_true_iff_get, Option.isSome_iff_exists, Bool.and_eq_true, bne_iff_ne, State.subAt_eq_some]
  constructor
  · rintro ⟨⟨x, hx⟩, hstate, b, hb⟩
    simp only [hx, Option.get_some] at hstate hb
    exact ⟨⟨t, x, b⟩, ⟨rfl, hx, hb⟩, hstate⟩
  · rintro ⟨y, ⟨-, hx, hb⟩, hstate⟩
    refine ⟨⟨_, hx⟩, ?_⟩
    simp only [hx, Option.get_some]
    exact ⟨hstate, _, hb⟩

theorem State.subsOf_eq (s : State) (ts : List TrackSlot) : s.subsOf ts = ts.filterMap s.subAt := by
  unfold State.subsOf
  refine List.filterMap_congr fun t _ => ?_
  rw [State.subAt]
  cases s.track t <;> rfl

theorem State.selected_eq (s : State) (ts : List TrackSlot) : s.selected ts = (ts.filter s.selects).filterMap s.subAt := by
  rw [State.selected, State.subsOf_eq, List.filter_filterMap, List.filterMap_filter]
  refine List.filterMap_congr fun t _ => ?_
  by_cases hsel : s.selects t = true
  · obtain ⟨y, hy, hstate⟩ := State.selects_iff.mp hsel
    rw [if_pos hsel, hy, Option.filter_some, if_pos (bne_iff_ne.mpr hstate)]
  · rw [if_neg hsel]
    refine Option.filter_eq_none_iff.mpr fun y hy hstate => hsel (State.selects_iff.mpr ⟨y, hy, bne_iff_ne.mp hstate⟩)

theorem State.mem_selected {s : State} {ts : List TrackSlot} {y : SubOf} : y ∈ s.selected ts ↔
    y.slot ∈ ts ∧ s.subAt y.slot = some y ∧ y.track.state ≠ .closing := by
  rw [State.selected_eq, List.mem_filterMap]
  constructor
  · rintro ⟨t, ht, hy⟩
    obtain ⟨hmem, hsel⟩ := List.mem_filter.mp ht
    obtain ⟨z, hz, hstate⟩ := State.selects_iff.mp hsel
    obtain rfl := Option.some.inj (hz.symm.trans hy)
    obtain ⟨rfl, -, -⟩ := State.subAt_eq_some.mp hy
    exact ⟨hmem, hy, hstate⟩
  · rintro ⟨hmem, hy, hstate⟩
    exact ⟨y.slot, List.mem_filter.mpr ⟨hmem, State.selects_iff.mpr ⟨y, hy, hstate⟩⟩, hy⟩

/-- A value of the selected SUB tracks is one of their slots. -/
theorem State.selected_map {α : Type} {s : State} {f : SubOf → α} {g : TrackSlot → α} (h : ∀ t y, s.subAt t = some y → f y = g t)
    (ts : List TrackSlot) : (s.selected ts).map f = (ts.filter s.selects).map g := by
  rw [State.selected_eq, List.map_filterMap, ← List.filterMap_eq_map]
  refine List.filterMap_congr fun t ht => ?_
  obtain ⟨y, hy, -⟩ := State.selects_iff.mp (List.mem_filter.mp ht).2
  rw [hy, Option.map_some, h t y hy]
  rfl

/-- What a take decides for each selected track, in track-list order (R57). -/
def State.partsOf (s : State) (m : Mark) (ts : List TrackSlot) : List TrackCut := (s.selected ts).map (s.cutTrack m)

theorem State.partsOf_eq (s : State) (m : Mark) (ts : List TrackSlot) : s.partsOf m ts =
    (ts.filter s.selects).filterMap fun t => (s.track t).bind fun x => x.sub?.map fun b => s.cutTrack m ⟨t, x, b⟩ := by
  rw [State.partsOf, State.selected_eq, List.map_filterMap]
  refine List.filterMap_congr fun t _ => ?_
  rw [State.subAt, Option.map_bind]
  refine congrArg _ (funext fun x => ?_)
  exact Option.map_map ..

theorem State.skippedBy_selected (s : State) (m : Mark) (ts : List TrackSlot) : skippedBy m (s.selected ts) =
    ((ts.filter s.selects).map fun t => ((s.sub? t).map fun b => b.cues.countP fun c => decide (c.stop ≤ m.s)).getD 0).sum := by
  refine congrArg List.sum (State.selected_map (fun t y hy => ?_) ts)
  obtain ⟨-, hx, hb⟩ := State.subAt_eq_some.mp hy
  rw [State.sub?, hx, Option.bind_some, hb]
  rfl

theorem State.partsOf_slots (s : State) (m : Mark) (ts : List TrackSlot) : (s.partsOf m ts).map (·.seg.track) = ts.filter s.selects := by
  rw [State.partsOf, List.map_map, State.selected_map (g := id) (fun t y hy => ?_) ts, List.map_id]
  exact (State.subAt_eq_some.mp hy).1

theorem State.mem_partsOf {s : State} {m : Mark} {ts : List TrackSlot} {u : TrackCut} :
    u ∈ s.partsOf m ts ↔ ∃ y ∈ s.selected ts, s.cutTrack m y = u := List.mem_map

/-- The ids kept for a selected track are those of its own part. -/
theorem State.keptFor_of_selected {s : State} {m : Mark} {ts : List TrackSlot} {t : TrackSlot} {x : Track} {b : SubTrack} (hmem : t ∈ ts)
    (ht : s.track t = some x) (hb : x.sub? = some b) (hx : x.state ≠ .closing) :
    keptFor (s.partsOf m ts) t = (s.cutTrack m ⟨t, x, b⟩).kept := by
  have hsub : s.subAt t = some ⟨t, x, b⟩ := State.subAt_eq_some.mpr ⟨rfl, ht, hb⟩
  unfold keptFor
  cases hfind : (s.partsOf m ts).find? fun c => c.seg.track == t with
  | none =>
    have hpart : s.cutTrack m ⟨t, x, b⟩ ∈ s.partsOf m ts := State.mem_partsOf.mpr ⟨_, State.mem_selected.mpr ⟨hmem, hsub, hx⟩, rfl⟩
    exact absurd (beq_self_eq_true t) (List.find?_eq_none.mp hfind _ hpart)
  | some u =>
    obtain ⟨y, hy, rfl⟩ := State.mem_partsOf.mp (List.mem_of_find?_eq_some hfind)
    have hslot : y.slot = t := eq_of_beq (List.find?_some (p := fun c : TrackCut => c.seg.track == t) hfind)
    obtain ⟨-, hy, -⟩ := State.mem_selected.mp hy
    rw [hslot] at hy
    rw [Option.some.inj (hy.symm.trans hsub)]

theorem State.keptFor_of_closing {s : State} {m : Mark} {ts : List TrackSlot} {t : TrackSlot} {x : Track} (ht : s.track t = some x)
    (hx : x.state = .closing) : keptFor (s.partsOf m ts) t = [] := by
  unfold keptFor
  cases hfind : (s.partsOf m ts).find? fun c => c.seg.track == t with
  | none => rfl
  | some u =>
    obtain ⟨y, hy, rfl⟩ := State.mem_partsOf.mp (List.mem_of_find?_eq_some hfind)
    have hslot : y.slot = t := eq_of_beq (List.find?_some (p := fun c : TrackCut => c.seg.track == t) hfind)
    obtain ⟨-, hy, hstate⟩ := State.mem_selected.mp hy
    obtain ⟨-, htrack, -⟩ := State.subAt_eq_some.mp hy
    rw [hslot, ht] at htrack
    exact absurd (Option.some.inj htrack ▸ hx) hstate

/-! ### Windows that end, and lists that are tidied -/

theorem State.concealed_iff (s : State) (t : TrackSlot) (e : Nat) : s.concealed t e = true ↔ s.ConcealEndsAt t e := by
  simp only [State.concealed, State.ConcealEndsAt]
  cases hx : s.track t with
  | none => simp
  | some x =>
    obtain ⟨p, state, stream, tag, body⟩ := x
    cases body with
    | ad a => simp [Track.sub?]
    | sub b =>
      obtain ⟨styles, reference, window, outcome, cues⟩ := b
      rcases window with _ | ⟨f, x, mode⟩
      · simp [Track.sub?]
      · cases x <;> simp [Track.sub?, Window.reached]

theorem State.tidyTracks_concealed (s : State) (ts : List TrackSlot) (cuts : List TrackCut) (e e' : Nat) (t : TrackSlot) :
    (s.tidyTracks ts cuts e).concealed t e' = s.concealed t e' := by
  have hmod : ∀ x : Track, (x.modSub fun b => b.tidy (keptFor cuts t) e).state = x.state ∧
      (x.modSub fun b => b.tidy (keptFor cuts t) e).sub? = x.sub?.map fun b => b.tidy (keptFor cuts t) e := by
    intro x
    cases hx : x.body <;> simp [Track.modSub, Track.sub?, hx]
  unfold State.concealed
  rw [State.tidyTracks_track]
  split
  · rw [Option.any_map]
    refine congrArg (fun f => Option.any f (s.track t)) (funext fun x => ?_)
    obtain ⟨hstate, hsub⟩ := hmod x
    show ((_ == _) && _) = _
    rw [hstate, hsub, Option.any_map]
    rfl
  · rfl

theorem Track.modSub_of_sub {x : Track} {b : SubTrack} (hb : x.body = .sub b) (f : SubTrack → SubTrack) :
    x.modSub f = { x with body := .sub (f b) } := by
  rw [Track.modSub, hb]

theorem Track.modSub_of_not_sub {x : Track} (hb : x.sub? = none) (f : SubTrack → SubTrack) : x.modSub f = x := by
  unfold Track.modSub
  split
  · rename_i b hbody
    rw [Track.sub?, hbody] at hb
    cases hb
  · rfl

theorem Track.sub?_of_body {x : Track} {b : SubTrack} (hb : x.body = .sub b) : x.sub? = some b := by
  rw [Track.sub?, hb]

/-! ### The part after a take -/

/-- The part once the lists are tidied, the record is moved on and the overflows are posted (R56, R60, R63, R64). -/
def State.cutPosted (s : State) (m : Mark) (rest : List Mark) (r : Programme) : State :=
  ((({ s with markQ := rest } : State).tidyTracks r.tracks (s.partsOf m r.tracks) m.e).modProg m.prog fun q =>
    q.afterTake m (skippedBy m (s.selected r.tracks)) ((s.partsOf m r.tracks).map (·.dropped)).sum).postOverflows m
      (s.partsOf m r.tracks)

/-- The part after a take. -/
def State.afterCut (s : State) (m : Mark) (rest : List Mark) (r : Programme) : State :=
  ((s.cutPosted m rest r).completeWindows m.prog r.tracks m.e).fillBuffer m.prog (s.partsOf m r.tracks)

section
variable {s : State} {m : Mark} {rest : List Mark} {r : Programme}

theorem MarkAccepted.exec (h : MarkAccepted s m rest r) : exec .markTaken s = .next (s.afterCut m rest r) := by
  obtain ⟨hq, hp, hstream, hr, hroom, hpasses⟩ := h
  change execMarkTaken s = _
  unfold execMarkTaken
  rw [hq]
  simp only [hp, ne_eq, hstream, not_true, if_false, hr, Config.cutBuffers, hroom, if_true]
  rw [State.judgeMark, if_pos ((m.passes_iff r).mpr hpasses)]
  have hcuts : ({ s with markQ := rest } : State).cutTrack m = s.cutTrack m := rfl
  have hselected : ({ s with markQ := rest } : State).selected r.tracks = s.selected r.tracks := rfl
  rw [State.take, hcuts, hselected, State.afterCut, State.cutPosted, State.partsOf]

theorem State.cutPosted_track (t : TrackSlot) : (s.cutPosted m rest r).track t =
    if t ∈ r.tracks then (s.track t).map (·.modSub fun b => b.tidy (keptFor (s.partsOf m r.tracks) t) m.e) else s.track t := by
  rw [State.cutPosted, State.track_def, State.postOverflows_tracks]
  exact State.tidyTracks_track ..

theorem State.cutPosted_concealed (t : TrackSlot) (e : Nat) : (s.cutPosted m rest r).concealed t e = true ↔ s.ConcealEndsAt t e := by
  have htidy := ({ s with markQ := rest } : State).tidyTracks_concealed r.tracks (s.partsOf m r.tracks) m.e e t
  rw [← State.concealed_iff]
  change _ ↔ ({ s with markQ := rest } : State).concealed t e = true
  rw [← htidy]
  refine Eq.congr_left (State.concealed_congr ?_ e)
  rw [State.cutPosted, State.track_def, State.postOverflows_tracks]
  rfl

theorem State.fillBuffer_track (p : ProgSlot) (cuts : List TrackCut) (t : TrackSlot) : (s.fillBuffer p cuts).track t = s.track t := by
  unfold State.fillBuffer
  split <;> rfl

theorem State.fillBuffer_prog (p q : ProgSlot) (cuts : List TrackCut) : (s.fillBuffer p cuts).prog q = s.prog q := by
  unfold State.fillBuffer
  split <;> rfl

open Classical in
theorem State.afterCut_track (t : TrackSlot) : (s.afterCut m rest r).track t = if t ∈ r.tracks ∧ s.ConcealEndsAt t m.e then
    ((s.cutPosted m rest r).track t).map Track.repaired else (s.cutPosted m rest r).track t := by
  rw [State.afterCut, State.fillBuffer_track, State.completeWindows_track]
  simp only [State.cutPosted_concealed]

theorem foldl_post_prog {p : ProgSlot} {q : Programme} (L : List Failure) (hp : s.prog p = some q) :
    (L.foldl (fun s f => s.post p f) s).prog p = some (L.foldl Programme.post q) := by
  induction L generalizing s q with
  | nil => exact hp
  | cons f L ih => exact ih (by simp [hp])

/-- The FULL failures of a take (R60). -/
def overflowFailures (m : Mark) (cuts : List TrackCut) : List Failure :=
  (cuts.filter (·.seg.overflow)).map fun c => ⟨.full, .segmark, some c.seg.track.val, some m.k, m.ordinal⟩

theorem State.postOverflows_prog {q : Programme} (hp : s.prog m.prog = some q) (cuts : List TrackCut) :
    (s.postOverflows m cuts).prog m.prog = some ((overflowFailures m cuts).foldl Programme.post q) := by
  rw [← foldl_post_prog (overflowFailures m cuts) hp, overflowFailures, List.foldl_map]
  rfl

theorem code_of_mem_overflowFailures {cuts : List TrackCut} {f : Failure} (h : f ∈ overflowFailures m cuts) : f.code = .full := by
  obtain ⟨c, -, rfl⟩ := List.mem_map.mp h
  rfl

theorem State.cutPosted_prog (hp : s.prog m.prog = some r) : (s.cutPosted m rest r).prog m.prog =
    some ((overflowFailures m (s.partsOf m r.tracks)).foldl Programme.post (r.afterTake m (skippedBy m (s.selected r.tracks))
      ((s.partsOf m r.tracks).map (·.dropped)).sum)) := by
  refine State.postOverflows_prog ?_ _
  rw [State.modProg_prog, if_pos rfl, State.tidyTracks_eq]
  exact congrArg (Option.map _) hp

theorem State.afterCut_prog_other {p : ProgSlot} (hp : p ≠ m.prog) : (s.afterCut m rest r).prog p = s.prog p := by
  rw [State.afterCut, State.fillBuffer_prog, State.completeWindows_other _ _ _ _ hp, State.cutPosted, State.postOverflows_other _ _ _ hp,
    State.modProg_prog, if_neg hp, State.tidyTracks_eq]
  rfl

theorem State.afterCut_eq : s.afterCut m rest r = { s with
    markQ := rest
    progs := (s.afterCut m rest r).progs
    tracks := (s.afterCut m rest r).tracks
    cuts := (s.afterCut m rest r).cuts } := by
  have hfill : ∀ u : State, ∀ cuts, u.fillBuffer m.prog cuts = { u with cuts := (u.fillBuffer m.prog cuts).cuts } := by
    intro u cuts
    unfold State.fillBuffer
    split <;> rfl
  have hposted : s.cutPosted m rest r = { s with
      markQ := rest
      progs := (s.cutPosted m rest r).progs
      tracks := (s.cutPosted m rest r).tracks } := by
    unfold State.cutPosted
    rw [State.postOverflows_eq, State.tidyTracks_eq]
    rfl
  unfold State.afterCut
  rw [hfill, State.completeWindows_eq, hposted]

theorem State.afterCut_cuts : (s.afterCut m rest r).cuts = if r.tracks.filter s.selects = [] then s.cuts
    else s.cuts ++ [⟨m.prog, (s.partsOf m r.tracks).map (·.seg)⟩] := by
  have hbefore : ((s.cutPosted m rest r).completeWindows m.prog r.tracks m.e).cuts = s.cuts := by
    rw [State.completeWindows_eq, State.cutPosted, State.postOverflows_eq, State.tidyTracks_eq]
    rfl
  have hempty : (s.partsOf m r.tracks).isEmpty = true ↔ r.tracks.filter s.selects = [] := by
    rw [← s.partsOf_slots m, List.map_eq_nil_iff, List.isEmpty_iff]
  rw [State.afterCut, State.fillBuffer]
  by_cases hnone : r.tracks.filter s.selects = []
  · rw [if_pos (hempty.mpr hnone), if_pos hnone, hbefore]
  · rw [if_neg (mt hempty.mp hnone), if_neg hnone]
    exact congrArg (fun cuts => cuts ++ [_]) hbefore

/-- Every own cue that overlaps the segment gives a kept entry when the track is ACTIVE and they are at most 24 (R58, R60). -/
theorem State.mem_kept_of_active {t : TrackSlot} {x : Track} {b : SubTrack} (hx : x.state = .active)
    (hcount : (b.cues.filter fun c => decide (c.start < m.e) && decide (m.s < c.stop)).length ≤ 24) (i : Nat) :
    i ∈ (s.cutTrack m ⟨t, x, b⟩).kept ↔ ∃ c ∈ b.cues, (c.start < m.e ∧ m.s < c.stop) ∧ c.id = i := by
  have hwindow : SubOf.fillWindow ⟨t, x, b⟩ m = none := by
    rw [SubOf.fillWindow, hx]
    rfl
  have hperm : (s.mergedOf ⟨t, x, b⟩ m).Perm (ownCandidates m.s m.e b.cues) := by
    rw [State.mergedOf, State.concealmentOf_of_no_window hwindow, List.append_nil]
    exact sortBy_perm _ _
  have hlength : (s.mergedOf ⟨t, x, b⟩ m).length ≤ 24 := by
    rw [hperm.length_eq, ownCandidates, List.length_map]
    exact hcount
  have hall : (s.mergedOf ⟨t, x, b⟩ m).take 24 = s.mergedOf ⟨t, x, b⟩ m := List.take_of_length_le hlength
  show i ∈ (((s.mergedOf ⟨t, x, b⟩ m).take 24).filter (·.own)).map (·.cue.id) ↔ _
  rw [hall, List.mem_map]
  simp only [List.mem_filter, hperm.mem_iff, ownCandidates, List.mem_map, Bool.and_eq_true, decide_eq_true_eq]
  constructor
  · rintro ⟨y, ⟨⟨c, ⟨hmem, hover⟩, rfl⟩, -⟩, rfl⟩
    exact ⟨c, hmem, hover, rfl⟩
  · rintro ⟨c, hmem, hover, rfl⟩
    exact ⟨_, ⟨⟨c, ⟨hmem, hover⟩, rfl⟩, rfl⟩, rfl⟩

/-- A list after a take, of an ACTIVE track with every entry kept: the cues that were cut are the emitted ones. -/
theorem map_emitted_of_active {t : TrackSlot} {x : Track} {b : SubTrack} (hm : m.s < m.e) (hx : x.state = .active)
    (hids : (b.cues.map (·.id)).Nodup)
    (hcount : (b.cues.filter fun c => decide (c.start < m.e) && decide (m.s < c.stop)).length ≤ 24) :
    ((b.cues.filter fun c => decide (m.e < c.stop)).map fun c =>
      if c.id ∈ (s.cutTrack m ⟨t, x, b⟩).kept then { c with emitted := true } else c) =
    (b.cues.filter fun c => decide (m.e < c.stop)).map fun c => if c.start < m.e then { c with emitted := true } else c := by
  refine List.map_congr_left fun c hc => ?_
  obtain ⟨hmem, hleft⟩ := List.mem_filter.mp hc
  have hkept : c.id ∈ (s.cutTrack m ⟨t, x, b⟩).kept ↔ c.start < m.e := by
    rw [State.mem_kept_of_active hx hcount]
    constructor
    · rintro ⟨c', hmem', ⟨hstart, -⟩, hid⟩
      rwa [List.inj_on_of_nodup_map hids hmem' hmem hid] at hstart
    · exact fun hstart => ⟨c, hmem, ⟨hstart, hm.trans (of_decide_eq_true hleft)⟩, rfl⟩
  simp only [hkept]

/-- What a take leaves of a SUB track of the programme (R63, R82). -/
theorem State.afterCut_sub {t : TrackSlot} {x : Track} {b : SubTrack} (hmem : t ∈ r.tracks) (ht : s.track t = some x)
    (hb : x.body = .sub b) :
    let left := b.cues.filter fun c => decide (m.e < c.stop)
    let cues := left.map fun c => if c.id ∈ (s.cutTrack m ⟨t, x, b⟩).kept then { c with emitted := true } else c
    (x.state = .closing → (s.afterCut m rest r).track t = some { x with body := .sub { b with cues := left } }) ∧
    (x.state ≠ .closing → ¬ s.ConcealEndsAt t m.e →
      (s.afterCut m rest r).track t = some { x with body := .sub { b with cues := cues } }) ∧
    (s.ConcealEndsAt t m.e → (s.afterCut m rest r).track t = some { x with
      state := .active
      body := .sub { b with outcome := some .repaired, cues := cues } }) := by
  intro left cues
  have htidied : (s.cutPosted m rest r).track t =
      some { x with body := .sub (b.tidy (keptFor (s.partsOf m r.tracks) t) m.e) } := by
    rw [State.cutPosted_track, if_pos hmem, ht, Option.map_some, Track.modSub_of_sub hb]
  have hkept : x.state ≠ .closing → b.tidy (keptFor (s.partsOf m r.tracks) t) m.e = { b with cues := cues } := by
    intro hx
    rw [State.keptFor_of_selected hmem ht (Track.sub?_of_body hb) hx]
    simp only [SubTrack.tidy, List.contains_eq_mem, decide_eq_true_eq]
    rfl
  have hconceals : s.ConcealEndsAt t m.e → x.state = .concealing := by
    rintro ⟨y, -, -, -, -, hy, hstate, -⟩
    rwa [Option.some.inj (ht.symm.trans hy)]
  refine ⟨fun hx => ?_, fun hx hends => ?_, fun hends => ?_⟩
  · rw [State.afterCut_track, if_neg fun h => absurd ((hconceals h.2).symm.trans hx) nofun, htidied, State.keptFor_of_closing ht hx]
    simp only [SubTrack.tidy, List.contains_nil, Bool.false_eq_true, if_false, List.map_id']
    rfl
  · rw [State.afterCut_track, if_neg fun h => hends h.2, htidied, hkept hx]
  · have hx : x.state ≠ .closing := fun hx => by cases (hconceals hends).symm.trans hx
    rw [State.afterCut_track, if_pos ⟨hmem, hends⟩, htidied, hkept hx]
    rfl

theorem State.afterCut_of_not_sub {t : TrackSlot} (h : t ∉ r.tracks ∨ s.sub? t = none) :
    (s.afterCut m rest r).track t = s.track t := by
  have hends : ¬ (t ∈ r.tracks ∧ s.ConcealEndsAt t m.e) := by
    rintro ⟨hmem, y, b, -, -, -, hy, -, hb, -⟩
    refine h.elim (fun hnot => hnot hmem) fun hsub => ?_
    rw [State.sub?, hy, Option.bind_some, Track.sub?_of_body hb] at hsub
    cases hsub
  rw [State.afterCut_track, if_neg hends, State.cutPosted_track]
  split
  next hmem =>
    have hsub := h.resolve_left fun hnot => hnot hmem
    cases hx : s.track t with
    | none => rfl
    | some x =>
      rw [State.sub?, hx] at hsub
      rw [Option.map_some, Track.modSub_of_not_sub hsub]
  next => rfl

theorem State.stop_of_afterCut {t : TrackSlot} (hmem : t ∈ r.tracks) {b : SubTrack} (hb : (s.afterCut m rest r).sub? t = some b)
    {c : SubCue} (hc : c ∈ b.cues) : m.e < c.stop := by
  have hcues := (s.cutPosted m rest r).completeWindows_cues m.prog r.tracks m.e t
  have hfill : (s.afterCut m rest r).sub? t = ((s.cutPosted m rest r).completeWindows m.prog r.tracks m.e).sub? t :=
    congrArg (·.bind Track.sub?) (State.fillBuffer_track ..)
  rw [← hfill, hb, State.sub?, State.cutPosted_track, if_pos hmem] at hcues
  obtain ⟨b', hb', hsame⟩ := Option.map_eq_some_iff.mp hcues.symm
  obtain ⟨y, hy, hsub⟩ := Option.bind_eq_some_iff.mp hb'
  obtain ⟨x, hx, rfl⟩ := Option.map_eq_some_iff.mp hy
  cases hbody : x.body with
  | ad a =>
    rw [Track.modSub, hbody, Track.sub?, hbody] at hsub
    cases hsub
  | sub b₀ =>
    rw [Track.modSub_of_sub hbody, Track.sub?] at hsub
    obtain rfl := Option.some.inj hsub
    change (b₀.tidy _ _).cues = b.cues at hsame
    exact SubTrack.stop_of_mem_tidy (hsame ▸ hc)

end

/-- Settles O25, by the parts of the take one after another. -/
theorem takeMovesTheCutLineAndFillsABuffer : Obligations.TakeMovesTheCutLineAndFillsABuffer := by
  unfold Obligations.TakeMovesTheCutLineAndFillsABuffer
  intro s m rest r h selected parts full skipped
  have hparts : s.partsOf m r.tracks = parts := s.partsOf_eq m r.tracks
  have hskipped : skippedBy m (s.selected r.tracks) = skipped := s.skippedBy_selected m r.tracks
  have hexec := h.exec
  obtain ⟨-, hp, -, hr, -, -, -, hm, -, -, -⟩ := h
  have hposted := State.cutPosted_prog (rest := rest) hp
  rw [hparts, hskipped, Programme.posts_full _ (fun _ => code_of_mem_overflowFailures) _ (by exact hr)] at hposted
  obtain ⟨n, hprog, hhalted, hfirst, hgap, hmissed, hmissedTracks, hdone, hdoneTracks⟩ :=
    State.completeWindows_prog hposted r.tracks m.e
  have hlist : overflowFailures m parts =
      full.map fun u => ⟨.full, .segmark, some u.seg.track.val, some m.k, m.ordinal⟩ := rfl
  have hnil : overflowFailures m parts = [] ↔ full = [] := by rw [hlist, List.map_eq_nil_iff]
  have hlength : (overflowFailures m parts).length = full.length := by rw [hlist, List.length_map]
  have hhead : (overflowFailures m parts).head? =
      full.head?.map fun u => ⟨.full, .segmark, some u.seg.track.val, some m.k, m.ordinal⟩ := by rw [hlist, List.head?_map]
  have hempty : (!(overflowFailures m parts).isEmpty) = true ↔ full ≠ [] := by
    rw [Bool.not_eq_true', ← Bool.not_eq_true, List.isEmpty_iff, hnil]
  refine ⟨_, n, hexec, ?_, ?_, ?_, ?_, ?_, fun t => ?_, hmissed, hmissedTracks, ?_, ?_, ?_, ?_, ?_, ?_, ?_, State.afterCut_eq⟩
  · rw [State.afterCut, State.fillBuffer_prog, hprog]
    simp only [ne_eq, hnil, hlength, hhead]
    rfl
  · rw [hhalted, Bool.or_eq_true, Bool.and_eq_true, hempty]
    rfl
  · rw [hfirst, Bool.or_eq_true, Bool.and_eq_true, hempty, Option.isNone_iff_eq_none]
    rfl
  · rw [hgap]
    show (_ || (_ && _)) = true ↔ _
    rw [Bool.or_eq_true, Bool.and_eq_true, decide_eq_true_eq, Option.isSome_iff_ne_none]
  · rw [hdone]
    simp only [State.cutPosted_concealed]
    rfl
  · rw [hdoneTracks, State.cutPosted_concealed]
    rfl
  · rw [State.afterCut_cuts, hparts]
    rfl
  · rw [← hparts]
    exact s.partsOf_slots m r.tracks
  · intro u hu
    rw [← hparts] at hu
    obtain ⟨y, -, rfl⟩ := State.mem_partsOf.mp hu
    exact ⟨rfl, rfl, rfl⟩
  · exact fun t hmem b hb c hc => State.stop_of_afterCut hmem hb hc
  · intro t hmem x b ht hb left cues
    obtain ⟨hclosing, hstays, hends⟩ := State.afterCut_sub (m := m) (rest := rest) hmem ht hb
    exact ⟨hclosing, hstays, hends, fun hx hids hcount => map_emitted_of_active hm hx hids hcount⟩
  · exact fun t => State.afterCut_of_not_sub
  · exact fun p => State.afterCut_prog_other

end Sys2Proof.Machine
end

section
/-! PROOF. Requests: the commands that take one, and the judgement by the programme. -/

namespace Sys2Proof.Machine

/-! ### Commands that take a request -/

/-- Command `c` takes a request of name `name` and carries `work` out (R150). -/
def Takes (c : Instr) (name : Byte) (work : State → Request → Worked) : Prop :=
  ∀ s, exec c s = .next (s.takeRequest (· == name) work)

section
variable {s u : State} {q : Request} {rest : List Request} {c : Instr} {name : Byte} {work : State → Request → Worked}

theorem Takes.answers (hc : Takes c name work) (ht : CanTake s q rest name) {a : Answer}
    (hwork : work (s.promised q rest) q = (u, some a)) : exec c s = .next (u.replyTo q a) := by
  rw [hc s, ht.takeRequest (· == name) (beq_self_eq_true name), hwork]

theorem Takes.defers (hc : Takes c name work) (ht : CanTake s q rest name) (hwork : work (s.promised q rest) q = deferred u) :
    exec c s = .next u := by
  rw [hc s, ht.takeRequest (· == name) (beq_self_eq_true name), hwork]
  rfl

theorem Takes.refuses (hc : Takes c name work) (ht : CanTake s q rest name) {code : ResultCode}
    (hwork : work (s.promised q rest) q = refuse (s.promised q rest) code) : exec c s = .next (s.replied q rest code []) := by
  rw [hc.answers ht hwork]
  exact congrArg _ (s.replyTo_promised q rest code [])

/-- A read that changes nothing. -/
theorem Takes.reads (hc : Takes c name work) (ht : CanTake s q rest name) {fields : List Byte}
    (hwork : work (s.promised q rest) q = answerDone (s.promised q rest) fields) : exec c s = .next (s.replied q rest .done fields) := by
  rw [hc.answers ht hwork]
  exact congrArg _ (s.replyTo_promised q rest .done fields)

end

/-! ### The judgement of R11 -/

section
variable {s : State} {q : Request} {r : Programme} {inHalted : Bool}

theorem State.judge_of_free (hp : s.prog q.prog = none) : s.judge q inHalted = .error .absent := by
  rw [State.judge, hp]

theorem State.judge_of_deferred (hp : s.prog q.prog = some r) (hd : r.deferred ≠ none) : s.judge q inHalted = .error .busy := by
  simp only [State.judge, hp, Option.isSome_iff_ne_none.mpr hd, if_true]

theorem State.judge_of_halted (hp : s.prog q.prog = some r) (hr : r.state = .halted) : s.judge q false = .error .busy := by
  simp only [State.judge, hp, hr, Bool.false_eq_true, if_false, ite_self]

theorem State.judge_of_active (hp : s.prog q.prog = some r) (hr : r.state = .active) (hd : r.deferred = none) :
    s.judge q inHalted = .ok r := by
  simp only [State.judge, hp, hr, hd, Option.isSome_none, Bool.false_eq_true, if_false]

theorem Programme.takes.judge_ok (hp : s.prog q.prog = some r) (h : r.takes) (hin : inHalted = false → r.state = .active) :
    s.judge q inHalted = .ok r := by
  cases inHalted with
  | true => exact h.judge hp
  | false => exact State.judge_of_active hp (hin rfl) h.2

theorem State.judged_of_error {code : ResultCode} (h : s.judge q inHalted = .error code) (n : Nat) (work : Programme → Worked) :
    s.judged q inHalted n work = refuse s code := by
  rw [State.judged, h]

theorem State.judged_of_ok (h : s.judge q inHalted = .ok r) {n : Nat} (hlength : q.params.length = n) (work : Programme → Worked) :
    s.judged q inHalted n work = work r := by
  simp only [State.judged, h, hlength, if_true]

theorem State.judged_of_wrongLength (h : s.judge q inHalted = .ok r) {n : Nat} (hlength : q.params.length ≠ n)
    (work : Programme → Worked) : s.judged q inHalted n work = refuse s .range := by
  simp only [State.judged, h, hlength, if_false]

end

/-- Command `c` takes a request that names a programme and is judged by R11 before its length; `inHalted` says whether HALTED takes it. -/
def TakesOfProgramme (c : Instr) (name : Byte) (inHalted : Bool) (length : Request → Nat) : Prop :=
  ∃ work : State → Request → Worked, Takes c name work ∧ ∀ s q, ∃ k, work s q = s.judged q inHalted (length q) k

theorem takes_setProgramme : TakesOfProgramme .setProgramme 0x03 true fun _ => 3 := ⟨workSetProgramme, fun _ => rfl, fun _ _ => ⟨_, rfl⟩⟩
theorem takes_closeProgramme : TakesOfProgramme .closeProgramme 0x04 true fun _ => 0 := ⟨workCloseProgramme, fun _ => rfl, fun _ _ => ⟨_, rfl⟩⟩
theorem takes_resetProgramme : TakesOfProgramme .resetProgramme 0x05 true fun _ => 0 := ⟨workResetProgramme, fun _ => rfl, fun _ _ => ⟨_, rfl⟩⟩
theorem takes_openTrack : TakesOfProgramme .openTrack 0x06 true fun _ => 19 := ⟨workOpenTrack, fun _ => rfl, fun _ _ => ⟨_, rfl⟩⟩
theorem takes_closeTrack : TakesOfProgramme .closeTrack 0x07 true fun _ => 1 := ⟨workCloseTrack, fun _ => rfl, fun _ _ => ⟨_, rfl⟩⟩
theorem takes_loadStyle : TakesOfProgramme .loadStyle 0x08 true fun q => 2 + 6 * (byteAt q.params 1).toNat :=
  ⟨workLoadStyle, fun _ => rfl, fun _ _ => ⟨_, rfl⟩⟩
theorem takes_concealSpan : TakesOfProgramme .concealSpan 0x09 false fun _ => 17 := ⟨workConcealSpan, fun _ => rfl, fun _ _ => ⟨_, rfl⟩⟩
theorem takes_concealUntilResume : TakesOfProgramme .concealUntilResume 0x0A false fun _ => 9 :=
  ⟨workConcealUntilResume, fun _ => rfl, fun _ _ => ⟨_, rfl⟩⟩
theorem takes_fence : TakesOfProgramme .fence 0x0B true fun _ => 0 := ⟨workFence, fun _ => rfl, fun _ _ => ⟨_, rfl⟩⟩
theorem takes_readProgramme : TakesOfProgramme .readProgramme 0x0C true fun _ => 0 := ⟨workReadProgramme, fun _ => rfl, fun _ _ => ⟨_, rfl⟩⟩
theorem takes_readTrack : TakesOfProgramme .readTrack 0x0D true fun _ => 1 := ⟨workReadTrack, fun _ => rfl, fun _ _ => ⟨_, rfl⟩⟩

section
variable {s : State} {q : Request} {rest : List Request} {c : Instr} {name : Byte} {inHalted : Bool} {length : Request → Nat}

theorem TakesOfProgramme.wrongLength (hc : TakesOfProgramme c name inHalted length) (ht : CanTake s q rest name) {r : Programme}
    (hp : s.prog q.prog = some r) (hr : r.takes) (hin : inHalted = false → r.state = .active) (hlength : q.params.length ≠ length q) :
    exec c s = .next (s.replied q rest .range []) := by
  obtain ⟨work, htakes, hjudged⟩ := hc
  obtain ⟨k, hk⟩ := hjudged (s.promised q rest) q
  exact htakes.refuses ht (hk.trans (State.judged_of_wrongLength (hr.judge_ok (s := s.promised q rest) hp hin) hlength k))

/-- What R11 alone decides of a request that names a programme. -/
structure JudgedByProgramme (s : State) (q : Request) (rest : List Request) (c : Instr) (inHalted : Bool) : Prop where
  free : s.prog q.prog = none → exec c s = .next (s.replied q rest .absent [])
  deferred : ∀ r, s.prog q.prog = some r → r.deferred ≠ none → exec c s = .next (s.replied q rest .busy [])
  halted : inHalted = false → ∀ r, s.prog q.prog = some r → r.state = .halted → exec c s = .next (s.replied q rest .busy [])

theorem Takes.judgedByProgramme {work : State → Request → Worked} (hc : Takes c name work) (ht : CanTake s q rest name)
    (herror : ∀ code, (s.promised q rest).judge q inHalted = .error code → work (s.promised q rest) q = refuse (s.promised q rest) code) :
    JudgedByProgramme s q rest c inHalted where
  free hp := hc.refuses ht (herror _ (State.judge_of_free hp))
  deferred r hp hd := hc.refuses ht (herror _ (State.judge_of_deferred (s := s.promised q rest) hp hd))
  halted hin r hp hr := by
    subst hin
    exact hc.refuses ht (herror _ (State.judge_of_halted (s := s.promised q rest) hp hr))

theorem TakesOfProgramme.judgedByProgramme (hc : TakesOfProgramme c name inHalted length) (ht : CanTake s q rest name) :
    JudgedByProgramme s q rest c inHalted := by
  obtain ⟨work, htakes, hjudged⟩ := hc
  obtain ⟨k, hk⟩ := hjudged (s.promised q rest) q
  exact htakes.judgedByProgramme ht fun code h => hk.trans (State.judged_of_error h _ k)

end

theorem takes_readCounters : Takes .readCounters 0x0E workReadCounters := fun _ => rfl
theorem takes_openProgramme : Takes .openProgramme 0x02 workOpenProgramme := fun _ => rfl
theorem takes_identify : Takes .identify 0x01 workIdentify := fun _ => rfl
theorem takes_setEgress : Takes .setEgress 0x0F workSetEgress := fun _ => rfl
theorem takes_unitReset : Takes .unitReset 0x10 workUnitReset := fun _ => rfl

theorem workReadCounters_of_programme {s : State} {q : Request} (h : q.params.head? = some 1) : workReadCounters s q =
    s.judged q true 2 fun r => answerDone (if clearFlag q then s.countIn q.prog fun _ => .zero else s) r.counters.fields := by
  rw [workReadCounters, if_pos h]

theorem workOpenProgramme_of_used {s : State} {q : Request} {r : Programme} (hp : s.prog q.prog = some r) :
    workOpenProgramme s q = refuse s .busy := by
  rw [workOpenProgramme, hp]

/-- Settles O38. -/
theorem requestsAreJudgedByTheirProgramme : Obligations.RequestsAreJudgedByTheirProgramme := by
  unfold Obligations.RequestsAreJudgedByTheirProgramme
  refine ⟨?noProgramme, ?openProgramme, ?lengths, ?readCounters, ?judged⟩
  case noProgramme =>
    intro s q rest c name length hmem ht hlength
    simp only [List.mem_cons, Prod.mk.injEq, List.not_mem_nil, or_false] at hmem
    rcases hmem with ⟨rfl, rfl, rfl⟩ | ⟨rfl, rfl, rfl⟩ | ⟨rfl, rfl, rfl⟩
    · exact takes_identify.refuses ht (if_neg hlength)
    · exact takes_setEgress.refuses ht (if_pos hlength)
    · exact takes_unitReset.refuses ht (if_pos hlength)
  case openProgramme =>
    intro s q rest ht hp hlength
    refine takes_openProgramme.refuses ht ?_
    rw [workOpenProgramme, State.promised_prog, hp]
    exact if_pos hlength
  case lengths =>
    intro s q rest c name length r hmem ht hp hr hconceal hlength
    simp only [List.mem_cons, Prod.mk.injEq, List.not_mem_nil, or_false] at hmem
    rcases hmem with ⟨rfl, rfl, rfl⟩ | ⟨rfl, rfl, rfl⟩ | ⟨rfl, rfl, rfl⟩ | ⟨rfl, rfl, rfl⟩ | ⟨rfl, rfl, rfl⟩ | ⟨rfl, rfl, rfl⟩ |
      ⟨rfl, rfl, rfl⟩ | ⟨rfl, rfl, rfl⟩ | ⟨rfl, rfl, rfl⟩ | ⟨rfl, rfl, rfl⟩ | ⟨rfl, rfl, rfl⟩
    · exact takes_setProgramme.wrongLength ht hp hr nofun hlength
    · exact takes_closeProgramme.wrongLength ht hp hr nofun hlength
    · exact takes_resetProgramme.wrongLength ht hp hr nofun hlength
    · exact takes_openTrack.wrongLength ht hp hr nofun hlength
    · exact takes_closeTrack.wrongLength ht hp hr nofun hlength
    · exact takes_loadStyle.wrongLength ht hp hr nofun hlength
    · exact takes_concealSpan.wrongLength ht hp hr (fun _ => hconceal (.inl rfl)) hlength
    · exact takes_concealUntilResume.wrongLength ht hp hr (fun _ => hconceal (.inr rfl)) hlength
    · exact takes_fence.wrongLength ht hp hr nofun hlength
    · exact takes_readProgramme.wrongLength ht hp hr nofun hlength
    · exact takes_readTrack.wrongLength ht hp hr nofun hlength
  case readCounters =>
    intro s q rest ht
    refine ⟨fun hscope hother => takes_readCounters.refuses ht ?_, fun r hp hr hscope hlength => takes_readCounters.refuses ht ?_⟩
    · have hunit : ¬ (q.params.head? = some 0 ∧ q.params.length = 2) := fun h => hother.elim (· h.1) (· h.2)
      rw [workReadCounters, if_neg hscope, if_neg hunit]
    · rw [workReadCounters_of_programme hscope]
      exact State.judged_of_wrongLength (hr.judge (s := s.promised q rest) hp) hlength _
  case judged =>
    intro s q rest c name hmem ht hscope
    have hsplit : ∀ inHalted : Bool, JudgedByProgramme s q rest c inHalted → name ≠ 0x02 →
        (name = 0x09 ∨ name = 0x0A → inHalted = false) →
        (name ≠ 0x02 → s.prog q.prog = none → exec c s = .next (s.replied q rest .absent [])) ∧
        (∀ r, s.prog q.prog = some r → r.deferred ≠ none → exec c s = .next (s.replied q rest .busy [])) ∧
        (∀ r, s.prog q.prog = some r → name = 0x02 → exec c s = .next (s.replied q rest .busy [])) ∧
        (∀ r, s.prog q.prog = some r → name = 0x09 ∨ name = 0x0A → r.state = .halted →
          exec c s = .next (s.replied q rest .busy [])) :=
      fun inHalted h hname hconceal => ⟨fun _ => h.free, h.deferred, fun r _ heq => absurd heq hname,
        fun r hp hname hr => h.halted (hconceal hname) r hp hr⟩
    simp only [List.mem_cons, Prod.mk.injEq, List.not_mem_nil, or_false] at hmem
    rcases hmem with ⟨rfl, rfl⟩ | ⟨rfl, rfl⟩ | ⟨rfl, rfl⟩ | ⟨rfl, rfl⟩ | ⟨rfl, rfl⟩ | ⟨rfl, rfl⟩ | ⟨rfl, rfl⟩ | ⟨rfl, rfl⟩ | ⟨rfl, rfl⟩ |
      ⟨rfl, rfl⟩ | ⟨rfl, rfl⟩ | ⟨rfl, rfl⟩ | ⟨rfl, rfl⟩
    · exact hsplit _ (takes_setProgramme.judgedByProgramme ht) (by decide) (by decide)
    · exact hsplit _ (takes_closeProgramme.judgedByProgramme ht) (by decide) (by decide)
    · exact hsplit _ (takes_resetProgramme.judgedByProgramme ht) (by decide) (by decide)
    · exact hsplit _ (takes_openTrack.judgedByProgramme ht) (by decide) (by decide)
    · exact hsplit _ (takes_closeTrack.judgedByProgramme ht) (by decide) (by decide)
    · exact hsplit _ (takes_loadStyle.judgedByProgramme ht) (by decide) (by decide)
    · exact hsplit _ (takes_concealSpan.judgedByProgramme ht) (by decide) (by decide)
    · exact hsplit _ (takes_concealUntilResume.judgedByProgramme ht) (by decide) (by decide)
    · exact hsplit _ (takes_fence.judgedByProgramme ht) (by decide) (by decide)
    · exact hsplit _ (takes_readProgramme.judgedByProgramme ht) (by decide) (by decide)
    · exact hsplit _ (takes_readTrack.judgedByProgramme ht) (by decide) (by decide)
    · refine hsplit true (takes_readCounters.judgedByProgramme ht fun code h => ?_) (by decide) (by decide)
      rw [workReadCounters_of_programme (hscope rfl)]
      exact State.judged_of_error h _ _
    · have hbusy : ∀ r, s.prog q.prog = some r → exec .openProgramme s = .next (s.replied q rest .busy []) :=
        fun r hp => takes_openProgramme.refuses ht (workOpenProgramme_of_used (s := s.promised q rest) hp)
      exact ⟨fun h => absurd rfl h, fun r hp _ => hbusy r hp, fun r hp _ => hbusy r hp, fun r hp _ _ => hbusy r hp⟩

end Sys2Proof.Machine
end

section
/-! PROOF. Requests: the fields that the reads answer with. -/

namespace Sys2Proof.Machine

/-! ### Bytes -/

theorem length_be (n v : Nat) : (be n v).length = n := by
  induction n with
  | zero => rfl
  | succ n ih => rw [be, List.length_cons, ih]

theorem foldl_beNat (bs : List Byte) (a : Nat) : bs.foldl (fun acc b => acc * 256 + b.toNat) a = a * 256 ^ bs.length + beNat bs := by
  induction bs generalizing a with
  | nil => rw [List.foldl_nil, List.length_nil, pow_zero, mul_one]; rfl
  | cons b bs ih =>
    rw [beNat, List.foldl_cons, List.foldl_cons, ih, ih (0 * 256 + b.toNat), List.length_cons]
    ring

theorem beNat_cons (b : Byte) (bs : List Byte) : beNat (b :: bs) = b.toNat * 256 ^ bs.length + beNat bs := by
  rw [beNat, List.foldl_cons, foldl_beNat, Nat.zero_mul, Nat.zero_add]

/-- Bytes that stand most significant byte first hold their value (R162). -/
theorem beNat_be (n v : Nat) : beNat (be n v) = v % 256 ^ n := by
  induction n with
  | zero => exact (Nat.mod_one v).symm
  | succ n ih =>
    have hbyte : (BitVec.ofNat 8 (v >>> (8 * n)) : Byte).toNat = v / 256 ^ n % 256 := by
      rw [BitVec.toNat_ofNat, Nat.shiftRight_eq_div_pow, Nat.pow_mul]
    rw [be, beNat_cons, length_be, ih, hbyte, Nat.mod_pow_succ, Nat.mul_comm, Nat.add_comm]

theorem be_one_zero : be 1 0 = [0] := rfl

theorem optField_none (n : Nat) : optField n none = List.replicate (n + 1) 0 := by
  rw [optField, be_one_zero, be_zero]
  rfl

/-! ### The fields of the reads -/

theorem NoticeSlot.kindsNumber_eq (n : NoticeSlot) : n.kindsNumber = n.halted.toNat + 2 * n.firstError.toNat + 4 * n.concealDone.toNat
    + 8 * n.segmentGap.toNat + 16 * n.eventMissed.toNat := by
  simp only [NoticeSlot.kindsNumber, flagByte]
  omega

theorem capacities_eq : ∃ four, (four = [32, 16, 32, 16] ∨ four = [16, 32, 16, 32]) ∧
    capacities = [16, 64, 8, 4, 4096, 512, 8192, 512, 16384, 3000, 32, 24, 32, 32, 8, 8, 4] ++ four := by
  unfold capacities
  cases Config.identifyListsThruFirst
  · exact ⟨_, .inr rfl, rfl⟩
  · exact ⟨_, .inl rfl, rfl⟩

theorem SubTrack.fields_grouped (b : SubTrack) : b.fields = optField 1 (b.reference.map fun t => be 1 t.val)
    ++ (be 1 b.styles.sourceNumber ++ be 1 b.styles.entries.length) ++ be 2 b.cues.length
    ++ (optField 8 (b.window.map fun w => be 8 w.f) ++ windowEndBytes b.window ++ optField 1 (b.window.map fun w => be 1 w.mode.number))
    ++ optField 1 (b.outcome.map fun o => be 1 o.number) := by
  simp only [SubTrack.fields, List.append_assoc]

theorem AdTrack.fields_grouped (a : AdTrack) : a.fields = be 2 a.gn ++ be 2 a.gd ++ be 1 a.attack ++ be 1 a.release
    ++ (be 1 a.engine.number ++ be 2 a.engine.position) ++ be 2 a.gain
    ++ optField 8 (a.engine.current?.map fun c => be 4 c.id ++ be 4 c.clip) ++ be 2 a.cues.length
    ++ optField 5 (a.cues.head?.map fun c => be 4 c.id ++ be 1 c.state.number) := by
  simp only [AdTrack.fields, List.append_assoc]

theorem Track.fields_of_sub {x : Track} {b : SubTrack} (hb : x.body = .sub b) (t : TrackSlot) : x.fields t = be 1 t.val ++ be 1 1
    ++ be 1 x.state.number ++ [x.stream] ++ be 1 x.tag.length ++ x.tag ++ List.replicate (8 - x.tag.length) 0 ++ b.fields := by
  simp only [Track.fields, tagBytes, hb, TrackBody.kindNumber, List.append_assoc]

theorem Track.fields_of_ad {x : Track} {a : AdTrack} (hb : x.body = .ad a) (t : TrackSlot) : x.fields t = be 1 t.val ++ be 1 2
    ++ be 1 x.state.number ++ [x.stream] ++ be 1 x.tag.length ++ x.tag ++ List.replicate (8 - x.tag.length) 0 ++ a.fields := by
  simp only [Track.fields, tagBytes, hb, TrackBody.kindNumber, List.append_assoc]

/-- The fields of the unit scope, one width after another (R155). -/
theorem State.unitFields_grouped (s : State) : s.unitFields =
    s.counters.fields ++ [s.freeCues, s.freeLines, s.freeClips, s.freePages].flatMap (be 2)
    ++ s.egress.settings.bytes ++ optField 9 (s.egress.pendingSettings.map EgressSettings.bytes)
    ++ [s.egress.passOver.ctl, s.egress.passOver.mix, s.egress.passOver.seg, s.egress.passOver.thru, s.egress.last.number,
      s.egress.credit, s.egress.ctlPlaced, s.egress.ctl.length - s.egress.ctlPlaced, s.egress.mix.length, s.egress.seg.length,
      s.egress.thru.length, s.rx.buffer.length, s.loaderQ.length, s.markQ.length, s.audioQ.length, s.requestQ.length].flatMap (be 1) := by
  simp only [State.unitFields, Egress.fields, List.flatMap_cons, List.flatMap_nil, List.append_nil, List.append_assoc]

theorem ctlPlaced_promised (s : State) (q : Request) (rest : List Request) : (s.promised q rest).egress.ctlPlaced = s.egress.ctlPlaced := by
  show List.countP _ (s.egress.ctl ++ [_]) = _
  rw [List.countP_append]
  rfl

section
variable {s : State} {q : Request} {r : Programme}

theorem workReadProgramme_of_taken (hp : s.prog q.prog = some r) (hr : r.takes) (hlength : q.params = []) :
    workReadProgramme s q = answerDone s (s.programmeFields r) :=
  hr.judged hp (congrArg List.length hlength) _

theorem workReadTrack_of_taken (hp : s.prog q.prog = some r) (hr : r.takes) {slot : Byte} (hparams : q.params = [slot]) {t : TrackSlot}
    {x : Track} (ht : s.trackOf q.prog slot.toNat = some (t, x)) : workReadTrack s q = answerDone s (x.fields t) := by
  rw [workReadTrack, hr.judged hp (n := 1) (congrArg List.length hparams), hparams, byteAt, List.getD_cons_zero, ht]

theorem workReadTrack_of_absent (hp : s.prog q.prog = some r) (hr : r.takes) {slot : Byte} (hparams : q.params = [slot])
    (ht : s.trackOf q.prog slot.toNat = none) : workReadTrack s q = refuse s .absent := by
  rw [workReadTrack, hr.judged hp (n := 1) (congrArg List.length hparams), hparams, byteAt, List.getD_cons_zero, ht]

theorem workReadCounters_of_taken (hp : s.prog q.prog = some r) (hr : r.takes) {flag : Byte} (hparams : q.params = [1, flag]) :
    workReadCounters s q = answerDone (if flag.getLsbD 0 = true then s.countIn q.prog fun _ => .zero else s) r.counters.fields := by
  rw [workReadCounters_of_programme (by rw [hparams]; rfl), hr.judged hp (n := 2) (congrArg List.length hparams), clearFlag, hparams]
  rfl

theorem workReadCounters_of_unit {flag : Byte} (hparams : q.params = [0, flag]) :
    workReadCounters s q = answerDone (if flag.getLsbD 0 = true then { s with counters := .zero } else s) s.unitFields := by
  have hscope : q.params.head? ≠ some 1 := by rw [hparams]; exact fun h => absurd (Option.some.inj h) (by decide)
  have hunit : q.params.head? = some 0 ∧ q.params.length = 2 := by rw [hparams]; exact ⟨rfl, rfl⟩
  rw [workReadCounters, if_neg hscope, if_pos hunit, clearFlag, hparams]
  rfl

end

/-- Settles O39. -/
theorem readsAnswerWithTheValuesAsTheyStand : Obligations.ReadsAnswerWithTheValuesAsTheyStand := by
  unfold Obligations.ReadsAnswerWithTheValuesAsTheyStand
  refine ⟨fun n v => ⟨length_be n v, beNat_be n v⟩, fun _ _ _ _ _ _ _ => makeParcel_bytes .., fun n bytes => ⟨rfl, optField_none n⟩,
    fun _ => rfl, rfl, rfl, rfl, rfl, ?_, ?_⟩
  · obtain ⟨four, hfour, hcapacities⟩ := capacities_eq
    refine ⟨four, hfour, fun s q rest ht hlength => takes_identify.reads ht ?_⟩
    rw [workIdentify, if_pos (List.length_eq_zero_iff.mpr hlength), ← hcapacities]
    rfl
  intro s q rest present
  have hpresent : present = optField := by
    funext n bytes
    cases bytes with
    | none => exact (optField_none n).symm
    | some bytes => rfl
  refine ⟨?readProgramme, ?noTrack, ?readTrack, ?programmeCounters, ?unitCounters⟩
  case readProgramme =>
    intro ht hparams r hp hr failure kinds
    refine Takes.reads (work := workReadProgramme) (fun _ => rfl) ht
      ((workReadProgramme_of_taken (s := s.promised q rest) hp hr hparams).trans (congrArg _ ?_))
    have hfailure : failure = Failure.bytes := by
      simp only [failure, hpresent]
      rfl
    simp only [State.programmeFields, State.trackListBytes, NoticeSlot.bytes, NoticeSlot.kindsNumber_eq, hfailure, hpresent, kinds,
      List.append_assoc, List.append_cancel_left_eq]
    refine congrArg (r.tracks.flatMap ·) (funext fun t => ?_)
    rw [State.promised_track]
    cases s.track t <;> rfl
  case noTrack =>
    intro ht r slot hp hr hparams hnone
    exact Takes.refuses (work := workReadTrack) (fun _ => rfl) ht
      (workReadTrack_of_absent (s := s.promised q rest) hp hr hparams hnone.trackOf)
  case readTrack =>
    intro ht r hp hr t x hparams hx hprog
    have hslot : (BitVec.ofNat 8 t.val : Byte).toNat = t.val := by
      rw [BitVec.toNat_ofNat]
      exact Nat.mod_eq_of_lt (t.isLt.trans (by decide))
    refine Takes.reads (work := workReadTrack) (fun _ => rfl) ht ((workReadTrack_of_taken (s := s.promised q rest) hp hr hparams
      (State.trackOf_of_track hslot hx hprog)).trans (congrArg _ ?_))
    cases hbody : x.body with
    | sub b =>
      rw [hpresent, Track.fields_of_sub hbody, SubTrack.fields_grouped]
      refine congrArg₂ (· ++ ·) rfl ?_
      refine congrArg₂ (· ++ ·) (congrArg₂ (· ++ ·) (congrArg₂ (· ++ ·) (congrArg₂ (· ++ ·) rfl ?styles) rfl) ?window) ?outcome
      case styles => cases b.styles <;> rfl
      case window =>
        rcases b.window with _ | ⟨f, e, mode⟩
        · rfl
        · cases e <;> cases mode <;> rfl
      case outcome =>
        rcases b.outcome with _ | outcome
        · rfl
        · cases outcome <;> rfl
    | ad a =>
      rw [hpresent, Track.fields_of_ad hbody, AdTrack.fields_grouped]
      refine congrArg₂ (· ++ ·) rfl ?_
      refine congrArg₂ (· ++ ·) (congrArg₂ (· ++ ·) (congrArg₂ (· ++ ·) (congrArg₂ (· ++ ·) (congrArg₂ (· ++ ·) rfl ?engine) rfl) rfl) rfl)
        (congrArg (optField 5) ?head)
      case engine => cases a.engine <;> rfl
      case head =>
        rcases a.cues with _ | ⟨h, behind⟩
        · rfl
        · show some (be 4 h.id ++ be 1 h.state.number) = some (be 4 h.id ++ [_])
          cases h.state <;> rfl
  case programmeCounters =>
    intro ht r flag hp hr hparams fields
    have hwork := workReadCounters_of_taken (s := s.promised q rest) hp hr hparams
    rw [takes_readCounters.answers ht hwork]
    split
    · rw [State.countIn_of_some (s := s.promised q rest) hp, ← s.replyTo_promised q rest .done fields]
      rfl
    · exact congrArg _ (s.replyTo_promised q rest .done fields)
  case unitCounters =>
    intro ht flag hparams settings placed fields
    have hsettings : settings = EgressSettings.bytes := by
      funext x
      simp only [settings, EgressSettings.bytes, List.flatMap_cons, List.flatMap_nil, List.append_nil, List.append_assoc]
      cases x.policy <;> rfl
    have hplaced : (s.promised q rest).egress.ctlPlaced = placed := by
      rw [ctlPlaced_promised]
      exact congrArg (s.egress.ctl.countP ·) (funext fun c => by cases c <;> rfl)
    have hctl : (s.promised q rest).egress.ctl.length = s.egress.ctl.length + 1 := List.length_append
    have hfields : (s.promised q rest).unitFields = fields := by
      rw [State.unitFields_grouped, hplaced, hctl, ← hpresent, ← hsettings]
      refine congrArg₂ (· ++ ·) rfl (congrArg (List.flatMap (be 1)) ?_)
      change _ :: _ :: _ :: _ :: s.egress.last.number :: _ = _
      cases s.egress.last <;> rfl
    have hwork := workReadCounters_of_unit (s := s.promised q rest) hparams
    rw [hfields] at hwork
    rw [takes_readCounters.answers ht hwork]
    split
    · have hreply := s.replyTo_promised q rest .done fields
      rw [← hreply]
      rfl
    · exact congrArg _ (s.replyTo_promised q rest .done fields)

end Sys2Proof.Machine
end

section
/-! PROOF. Requests: OPEN-PROGRAMME, SET-PROGRAMME, CLOSE-PROGRAMME and RESET-PROGRAMME. -/

namespace Sys2Proof.Machine

/-! ### OPEN-PROGRAMME, SET-PROGRAMME -/

theorem beNat_lt (bs : List Byte) : beNat bs < 256 ^ bs.length := by
  induction bs with
  | nil => exact Nat.one_pos
  | cons b bs ih =>
    have hb : b.toNat + 1 ≤ 256 := b.isLt
    rw [beNat_cons, List.length_cons, Nat.pow_succ']
    calc b.toNat * 256 ^ bs.length + beNat bs < b.toNat * 256 ^ bs.length + 256 ^ bs.length := Nat.add_lt_add_left ih _
      _ = (b.toNat + 1) * 256 ^ bs.length := by ring
      _ ≤ 256 * 256 ^ bs.length := Nat.mul_le_mul_right _ hb

theorem fieldAt_lt (bs : List Byte) (off len : Nat) : fieldAt bs off len < 256 ^ len :=
  (beNat_lt _).trans_le (Nat.pow_le_pow_right (by decide) (List.length_take_le ..))

theorem escalationAllowed_iff (e : BitVec 8) : escalationAllowed e = true ↔
    e.getLsbD 0 = false ∧ e.getLsbD 1 = false ∧ e.getLsbD 7 = false := by
  simp only [escalationAllowed, Bool.and_eq_true, Bool.not_eq_true', and_assoc]

theorem OpenParams.inRange_iff (ps : List Byte) : (openParamsOf ps).inRange = true ↔ 1 ≤ fieldAt ps 1 4 ∧ fieldAt ps 1 4 ≤ 240000 ∧
    1 ≤ fieldAt ps 5 2 ∧ fieldAt ps 7 8 ≤ maxTick ∧ fieldAt ps 15 2 ≤ 32767 ∧ escalationAllowed (byteAt ps 17) = true := by
  have hd : fieldAt ps 5 2 ≤ 65535 := Nat.le_of_lt_succ (fieldAt_lt ps 5 2)
  simp only [OpenParams.inRange, Bool.and_eq_true, decide_eq_true_eq]
  simp only [openParamsOf, hd, and_true, and_assoc]

section
variable {s : State} {q : Request} {rest : List Request}

theorem State.replyTo_setProg (s : State) (q : Request) (p : ProgSlot) (r : Option Programme) (a : Answer) :
    (s.setProg p r).replyTo q a = (s.replyTo q a).setProg p r := rfl

theorem State.replyTo_setTrack (s : State) (q : Request) (t : TrackSlot) (x : Option Track) (a : Answer) :
    (s.setTrack t x).replyTo q a = (s.replyTo q a).setTrack t x := rfl

/-- A reply after a record has been written. -/
theorem State.replyTo_promised_setProg (p : ProgSlot) (r : Option Programme) (code : ResultCode) (fields : List Byte) :
    ((s.promised q rest).setProg p r).replyTo q ⟨code, fields⟩ = (s.replied q rest code fields).setProg p r := by
  rw [State.replyTo_setProg, State.replyTo_promised]

theorem workOpenProgramme_of_free (hp : s.prog q.prog = none) (hlength : q.params.length = 18) : workOpenProgramme s q =
    if (openParamsOf q.params).inRange = true ∧ s.streamInUse (byteAt q.params 0) = false then
      answerDone (s.setProg q.prog (some (freshProgramme (byteAt q.params 0) ⟨fieldAt q.params 1 4, fieldAt q.params 5 2,
        fieldAt q.params 7 8⟩ (fieldAt q.params 15 2) (byteAt q.params 17) []))) []
    else refuse s .range := by
  rw [workOpenProgramme, hp]
  simp only [hlength, ne_eq, not_true, if_false]
  cases hin : (openParamsOf q.params).inRange with
  | false => rfl
  | true =>
    cases huse : s.streamInUse (byteAt q.params 0) with
    | false => exact if_neg (ne_of_eq_of_ne huse (by decide))
    | true => exact if_pos huse

theorem workOpenProgramme_of_wrongLength (hp : s.prog q.prog = none) (hlength : q.params.length ≠ 18) :
    workOpenProgramme s q = refuse s .range := by
  rw [workOpenProgramme, hp]
  exact if_pos hlength

/-- Settles O40. -/
theorem openProgrammeWritesAFreshRecord : Obligations.OpenProgrammeWritesAFreshRecord := by
  unfold Obligations.OpenProgrammeWritesAFreshRecord
  intro s q rest ht hp hlength stream n d origin threshold escalation hn hn' hd horigin hthreshold h0 h1 h7 hprogs htracks
  have hpasses : (openParamsOf q.params).inRange = true ∧ (s.promised q rest).streamInUse (byteAt q.params 0) = false :=
    ⟨(OpenParams.inRange_iff _).mpr ⟨hn, hn', hd, horigin, hthreshold, (escalationAllowed_iff _).mpr ⟨h0, h1, h7⟩⟩,
      (State.streamInUse_eq_false _ _).mpr ⟨hprogs, htracks⟩⟩
  have hwork := workOpenProgramme_of_free (s := s.promised q rest) hp hlength
  rw [if_pos hpasses] at hwork
  exact (takes_openProgramme.answers ht hwork).trans (congrArg _ (State.replyTo_promised_setProg ..))

theorem workSetProgramme_of_taken {r : Programme} (hp : s.prog q.prog = some r) (hr : r.takes) (hlength : q.params.length = 3) :
    workSetProgramme s q = if 32767 < fieldAt q.params 0 2 ∨ escalationAllowed (byteAt q.params 2) = false then refuse s .range
      else answerDone (s.setProg q.prog (some { r with threshold := fieldAt q.params 0 2, escalation := byteAt q.params 2 })) [] := by
  rw [workSetProgramme, hr.judged hp hlength, State.modProg_of_some hp]

/-- A code outside the allowed five is in the escalation set (R13). -/
theorem escalationAllowed_eq_false_iff (e : BitVec 8) : escalationAllowed e = false ↔
    e.getLsbD 0 = true ∨ e.getLsbD 1 = true ∨ e.getLsbD 7 = true := by
  simp only [escalationAllowed, Bool.and_eq_false_iff, Bool.not_eq_false', or_assoc]

/-- Settles O41. -/
theorem setProgrammeWritesThresholdAndEscalation : Obligations.SetProgrammeWritesThresholdAndEscalation := by
  unfold Obligations.SetProgrammeWritesThresholdAndEscalation
  intro s q rest
  refine ⟨?setProgramme, ?streams, ?ranges⟩
  case setProgramme =>
    intro ht r hp hr hlength threshold escalation
    have hwork := workSetProgramme_of_taken (s := s.promised q rest) hp hr hlength
    refine ⟨fun ⟨hthreshold, hescalation⟩ => ?_, fun hrefused => ?_⟩
    · rw [if_neg] at hwork
      · exact (Takes.answers (fun _ => rfl) ht hwork).trans (congrArg _ (State.replyTo_promised_setProg ..))
      · rintro (h | h)
        · exact Nat.not_le.mpr h hthreshold
        · exact Bool.eq_false_iff.mp h ((escalationAllowed_iff _).mpr hescalation)
    · rw [if_pos] at hwork
      · exact Takes.refuses (fun _ => rfl) ht hwork
      · exact hrefused.imp_right (escalationAllowed_eq_false_iff _).mpr
  case streams =>
    intro ht hp hused
    by_cases hlength : q.params.length = 18
    · have hwork := workOpenProgramme_of_free (s := s.promised q rest) hp hlength
      rw [if_neg] at hwork
      · exact takes_openProgramme.refuses ht hwork
      · rintro ⟨-, hfree⟩
        obtain ⟨hprogs, htracks⟩ := (State.streamInUse_eq_false _ _).mp hfree
        rcases hused with ⟨p, r, hr, heq⟩ | ⟨t, x, hx, heq⟩
        · exact hprogs p r hr heq
        · exact htracks t x hx heq
    · exact takes_openProgramme.refuses ht (workOpenProgramme_of_wrongLength (s := s.promised q rest) hp hlength)
  case ranges =>
    intro ht hp hlength n escalation hrefused
    have hwork := workOpenProgramme_of_free (s := s.promised q rest) hp hlength
    rw [if_neg] at hwork
    · exact takes_openProgramme.refuses ht hwork
    · rintro ⟨hin, -⟩
      obtain ⟨hn, hn', hd, horigin, hthreshold, hescalation⟩ := (OpenParams.inRange_iff _).mp hin
      rcases hrefused with h | h | h | h | h | h
      · exact Nat.one_le_iff_ne_zero.mp hn h
      · exact Nat.not_le.mpr h hn'
      · exact Nat.one_le_iff_ne_zero.mp hd h
      · exact Nat.not_le.mpr h horigin
      · exact Nat.not_le.mpr h hthreshold
      · cases hescalation.symm.trans ((escalationAllowed_eq_false_iff _).mpr h)

/-! ### CLOSE-PROGRAMME, RESET-PROGRAMME -/

theorem State.beginDrain_of_some {r : Programme} (hp : s.prog q.prog = some r) (state : ProgState) (kind : DeferredKind) :
    s.beginDrain q state kind = { s.setProg q.prog (some { r with state := state, deferred := some ⟨kind, q.tag, q.stream⟩ }) with
      audio := s.audio.map fun w => if w.copy.prog = q.prog then { w with inFlight := true } else w } := by
  rw [State.beginDrain, State.defer, State.modProg_of_some hp, State.modProg_of_some (by simp; rfl), State.setProg_setProg]
  rfl

/-- Settles O42. -/
theorem drainBeginsAtCloseAndReset : Obligations.DrainBeginsAtCloseAndReset := by
  unfold Obligations.DrainBeginsAtCloseAndReset
  intro s q rest r hp hr hparams audio
  have hlength : q.params.length = 0 := List.length_eq_zero_iff.mpr hparams
  refine ⟨fun ht => ?_, fun ht => ?_⟩
  · refine Takes.defers (work := workCloseProgramme) (fun _ => rfl) ht ?_
    rw [workCloseProgramme, hr.judged (s := s.promised q rest) hp hlength, State.beginDrain_of_some (s := s.promised q rest) hp]
    rfl
  · refine Takes.defers (work := workResetProgramme) (fun _ => rfl) ht ?_
    rw [workResetProgramme, hr.judged (s := s.promised q rest) hp hlength, State.beginDrain_of_some (s := s.promised q rest) hp]
    rfl

end

end Sys2Proof.Machine
end

section
/-! PROOF. Requests: OPEN-TRACK. -/

namespace Sys2Proof.Machine

/-! ### OPEN-TRACK -/

/-- The language tag of an OPEN-TRACK (R163). -/
def openTag (ps : List Byte) : List Byte := (ps.drop 3).take (byteAt ps 2).toNat

/-- The tag of an OPEN-TRACK is 1 to 8 printable bytes (R25). -/
def TagAllowed (ps : List Byte) : Prop :=
  1 ≤ (byteAt ps 2).toNat ∧ (byteAt ps 2).toNat ≤ 8 ∧ ∀ c ∈ openTag ps, 0x20 ≤ c.toNat ∧ c.toNat ≤ 0x7E

/-- An OPEN-TRACK asks for a SUB track whose reference byte, when it is present, is `n` (R25, R163). -/
def AsksSub (ps : List Byte) (n : Option Nat) : Prop :=
  byteAt ps 0 = 1 ∧ ((byteAt ps 11 = 0 ∧ n = none) ∨ (byteAt ps 11 = 1 ∧ n = some (byteAt ps 12).toNat))

/-- An OPEN-TRACK asks for an AD track (R25, R163). -/
def AsksAd (ps : List Byte) : Prop :=
  byteAt ps 0 = 2 ∧ fieldAt ps 13 2 ≤ 32768 ∧ fieldAt ps 15 2 ≤ 32768 ∧ (byteAt ps 17).toNat ≤ 50 ∧ (byteAt ps 18).toNat ≤ 50

/-- The parameters of an OPEN-TRACK for an AD track. -/
def adParams (ps : List Byte) : TrackParams :=
  .ad (byteAt ps 1) (openTag ps) (fieldAt ps 13 2) (fieldAt ps 15 2) (byteAt ps 17).toNat (byteAt ps 18).toNat

theorem tagAllowed_iff (ps : List Byte) : (1 ≤ (byteAt ps 2).toNat && (byteAt ps 2).toNat ≤ 8 &&
    (openTag ps).all fun b => 0x20 ≤ b.toNat && b.toNat ≤ 0x7E) = true ↔ TagAllowed ps := by
  simp only [TagAllowed, Bool.and_eq_true, decide_eq_true_eq, List.all_eq_true, and_assoc]

section
variable {ps : List Byte}

theorem trackParamsOf_of_bad_tag (h : ¬ TagAllowed ps) : trackParamsOf ps = none := by
  have htest := Bool.eq_false_iff.mpr (mt (tagAllowed_iff ps).mp h)
  unfold openTag at htest
  unfold trackParamsOf
  simp only [htest, Bool.not_false, if_true]

theorem trackParamsOf_of_tag (h : TagAllowed ps) : trackParamsOf ps =
    if byteAt ps 0 = 1 then
      if byteAt ps 11 = 0 then some (.sub (byteAt ps 1) (openTag ps) none)
      else if byteAt ps 11 = 1 then some (.sub (byteAt ps 1) (openTag ps) (some (byteAt ps 12).toNat))
      else none
    else if byteAt ps 0 = 2 then
      if fieldAt ps 13 2 ≤ 32768 ∧ fieldAt ps 15 2 ≤ 32768 ∧ (byteAt ps 17).toNat ≤ 50 ∧ (byteAt ps 18).toNat ≤ 50 then some (adParams ps)
      else none
    else none := by
  have htest := (tagAllowed_iff ps).mpr h
  unfold openTag at htest
  unfold trackParamsOf openTag
  simp only [htest, Bool.not_true, Bool.false_eq_true, if_false, beq_iff_eq, Bool.and_eq_true, decide_eq_true_eq, and_assoc]
  rfl

theorem trackParamsOf_iff (tp : TrackParams) : trackParamsOf ps = some tp ↔ TagAllowed ps ∧
    ((∃ n, AsksSub ps n ∧ tp = .sub (byteAt ps 1) (openTag ps) n) ∨ (AsksAd ps ∧ tp = adParams ps)) := by
  by_cases htag : TagAllowed ps
  · rw [trackParamsOf_of_tag htag]
    constructor
    · intro h
      refine ⟨htag, ?_⟩
      split_ifs at h with hsub habsent hpresent had hranges
      · exact .inl ⟨none, ⟨hsub, .inl ⟨habsent, rfl⟩⟩, (Option.some.inj h).symm⟩
      · exact .inl ⟨_, ⟨hsub, .inr ⟨hpresent, rfl⟩⟩, (Option.some.inj h).symm⟩
      · exact .inr ⟨⟨had, hranges⟩, (Option.some.inj h).symm⟩
    · rintro ⟨-, ⟨n, ⟨hsub, ⟨habsent, rfl⟩ | ⟨hpresent, rfl⟩⟩, rfl⟩ | ⟨⟨had, hranges⟩, rfl⟩⟩
      · rw [if_pos hsub, if_pos habsent]
      · rw [if_pos hsub, if_neg (by rw [hpresent]; decide), if_pos hpresent]
      · rw [if_neg (by rw [had]; decide), if_pos had, if_pos hranges]
  · rw [trackParamsOf_of_bad_tag htag]
    exact ⟨nofun, fun h => absurd h.1 htag⟩

end

theorem TrackParams.stream_of_trackParamsOf {ps : List Byte} {tp : TrackParams} (h : trackParamsOf ps = some tp) :
    tp.stream = byteAt ps 1 := by
  obtain ⟨-, ⟨n, -, rfl⟩ | ⟨-, rfl⟩⟩ := (trackParamsOf_iff tp).mp h <;> rfl

section
variable {s : State} {q : Request} {r : Programme} {p : ProgSlot}

/-- The slot `u` holds a SUB track of programme `p` that is not CLOSING (R25). -/
def State.Refers (s : State) (p : ProgSlot) (u : TrackSlot) : Prop :=
  ∃ y, s.track u = some y ∧ y.prog = p ∧ y.state ≠ .closing ∧ s.sub? u ≠ none

theorem trackSlotOf_val (u : TrackSlot) : trackSlotOf u.val = some u := dif_pos u.isLt

theorem State.trackOf_eq_some {n : Nat} {u : TrackSlot} {y : Track} (h : s.trackOf p n = some (u, y)) :
    n = u.val ∧ s.track u = some y ∧ y.prog = p := by
  by_cases hn : n < 64
  · cases hy : s.track ⟨n, hn⟩ with
    | none =>
      rw [State.trackOf_of_free (n := n) (t := ⟨n, hn⟩) rfl hy] at h
      cases h
    | some y' =>
      by_cases hprog : y'.prog = p
      · rw [State.trackOf_of_track (n := n) (t := ⟨n, hn⟩) rfl hy hprog] at h
        obtain ⟨rfl, rfl⟩ := Prod.mk.inj (Option.some.inj h)
        exact ⟨rfl, hy, hprog⟩
      · rw [State.trackOf_of_other (n := n) (t := ⟨n, hn⟩) rfl hy hprog] at h
        cases h
  · rw [State.trackOf_of_large (by omega)] at h
    cases h

theorem State.referenceAllowed_of_found {stream : Byte} {tag : List Byte} {n : Nat} {u : TrackSlot} {y : Track}
    (h : s.trackOf p n = some (u, y)) : s.referenceAllowed p (.sub stream tag (some n)) = (y.sub?.isSome && y.state != .closing) := by
  simp only [State.referenceAllowed, h]

theorem State.referenceAllowed_of_not_found {stream : Byte} {tag : List Byte} {n : Nat} (h : s.trackOf p n = none) :
    s.referenceAllowed p (.sub stream tag (some n)) = false := by
  simp only [State.referenceAllowed, h]

theorem State.referenceAllowed_some (stream : Byte) (tag : List Byte) (n : Nat) :
    s.referenceAllowed p (.sub stream tag (some n)) = true ↔ ∃ u : TrackSlot, n = u.val ∧ s.Refers p u := by
  constructor
  · intro h
    cases hof : s.trackOf p n with
    | none => cases (State.referenceAllowed_of_not_found hof).symm.trans h
    | some found =>
      obtain ⟨u, y⟩ := found
      rw [State.referenceAllowed_of_found hof] at h
      obtain ⟨hsub, hstate⟩ := Bool.and_eq_true_iff.mp h
      obtain ⟨hn, hy, hprog⟩ := State.trackOf_eq_some hof
      refine ⟨u, hn, y, hy, hprog, bne_iff_ne.mp hstate, ?_⟩
      rw [State.sub?, hy]
      exact Option.isSome_iff_ne_none.mp hsub
  · rintro ⟨u, hn, y, hy, hprog, hstate, hsub⟩
    rw [State.referenceAllowed_of_found (State.trackOf_of_track hn hy hprog)]
    rw [State.sub?, hy] at hsub
    exact Bool.and_eq_true_iff.mpr ⟨Option.isSome_iff_ne_none.mpr hsub, bne_iff_ne.mpr hstate⟩

theorem State.tracksFull_sub (stream : Byte) (tag : List Byte) (n : Option Nat) : s.tracksFull r (.sub stream tag n) = true ↔
    8 ≤ (r.tracks.filter fun u => (s.sub? u).isSome).length := by
  rw [← List.countP_eq_length_filter]
  exact decide_eq_true_iff

theorem State.tracksFull_ad (ps : List Byte) : s.tracksFull r (adParams ps) = true ↔
    4 ≤ (r.tracks.filter fun u => (s.ad? u).isSome).length := by
  rw [← List.countP_eq_length_filter]
  exact decide_eq_true_iff

theorem State.freeTrack?_eq_none (s : State) : s.freeTrack? = none ↔ ∀ u, s.track u ≠ none := by
  simp only [State.freeTrack?, List.find?_eq_none, trackSlots, List.mem_finRange, true_imp_iff, Option.isNone_iff_eq_none, ne_eq]

theorem State.freeTrack?_eq_some {t : TrackSlot} (ht : s.track t = none) (hlow : ∀ u, u < t → s.track u ≠ none) :
    s.freeTrack? = some t := by
  cases hfind : s.freeTrack? with
  | none => exact absurd ht (s.freeTrack?_eq_none.mp hfind t)
  | some u =>
    obtain ⟨hu, before, behind, hslots, hbefore⟩ := List.find?_eq_some_iff_append.mp hfind
    have hmem : t ∈ before ++ u :: behind := hslots ▸ List.mem_finRange t
    have hordered : (before ++ u :: behind).Pairwise (· < ·) := hslots ▸ List.pairwise_lt_finRange 64
    rcases List.mem_append.mp hmem with hmem | hmem
    · have := hbefore t hmem
      rw [ht] at this
      cases this
    · rcases List.mem_cons.mp hmem with rfl | hmem
      · rfl
      · have hlt : u < t := List.rel_of_pairwise_cons (List.pairwise_append.mp hordered).2.1 hmem
        exact absurd (Option.isNone_iff_eq_none.mp hu) (hlow u hlt)

theorem State.openTrackSlot_of_refused {tp : TrackParams} (h : ¬ (s.referenceAllowed p tp = true ∧ s.streamInUse tp.stream = false)) :
    s.openTrackSlot p r tp = .error .range := by
  unfold State.openTrackSlot
  cases hreference : s.referenceAllowed p tp with
  | false => rfl
  | true =>
    have huse : s.streamInUse tp.stream = true := Bool.eq_true_of_not_eq_false fun huse => h ⟨hreference, huse⟩
    simp only [huse, Bool.not_true, Bool.false_eq_true, if_false, if_true]

theorem State.openTrackSlot_of_full {tp : TrackParams} (hreference : s.referenceAllowed p tp = true)
    (huse : s.streamInUse tp.stream = false) (hfull : s.tracksFull r tp = true ∨ s.freeTrack? = none) :
    s.openTrackSlot p r tp = .error .full := by
  unfold State.openTrackSlot
  simp only [hreference, huse, Bool.not_true, Bool.false_eq_true, if_false]
  by_cases hkind : s.tracksFull r tp = true
  · rw [if_pos hkind]
  · rw [if_neg hkind, hfull.resolve_left hkind]

theorem State.openTrackSlot_of_free {tp : TrackParams} (hreference : s.referenceAllowed p tp = true)
    (huse : s.streamInUse tp.stream = false) (hroom : s.tracksFull r tp = false) {t : TrackSlot} (ht : s.freeTrack? = some t) :
    s.openTrackSlot p r tp = .ok t := by
  unfold State.openTrackSlot
  simp only [hreference, huse, hroom, Bool.not_true, Bool.false_eq_true, if_false]
  rw [ht]

theorem workOpenTrack_of_none (hp : s.prog q.prog = some r) (hr : r.takes) (hlength : q.params.length = 19)
    (hparams : trackParamsOf q.params = none) : workOpenTrack s q = refuse s .range := by
  rw [workOpenTrack, hr.judged hp hlength, hparams]

theorem workOpenTrack_of_error (hp : s.prog q.prog = some r) (hr : r.takes) (hlength : q.params.length = 19) {tp : TrackParams}
    (hparams : trackParamsOf q.params = some tp) {code : ResultCode} (h : s.openTrackSlot q.prog r tp = .error code) :
    workOpenTrack s q = refuse s code := by
  rw [workOpenTrack, hr.judged hp hlength, hparams]
  dsimp only
  rw [h]

theorem workOpenTrack_of_ok (hp : s.prog q.prog = some r) (hr : r.takes) (hlength : q.params.length = 19) {tp : TrackParams}
    (hparams : trackParamsOf q.params = some tp) {t : TrackSlot} (h : s.openTrackSlot q.prog r tp = .ok t) :
    workOpenTrack s q = answerDone ((s.setTrack t (some (tp.opened q.prog))).setProg q.prog (some { r with tracks := r.tracks ++ [t] }))
      (be 1 t.val) := by
  rw [workOpenTrack, hr.judged hp hlength, hparams]
  dsimp only
  rw [h]
  dsimp only
  rw [State.modProg_of_some (r := r) (by exact hp)]

end

/-- Settles O43. -/
theorem openTrackTakesTheLowestFreeSlot : Obligations.OpenTrackTakesTheLowestFreeSlot := by
  unfold Obligations.OpenTrackTakesTheLowestFreeSlot
  intro s q rest r ht hp hr hlength n tag subs ads asSub asAd passes
  have htakes : Takes .openTrack 0x06 workOpenTrack := fun _ => rfl
  have hasSub : ∀ reference, asSub reference ↔ ∃ n, AsksSub q.params n ∧
      s.referenceAllowed q.prog (.sub (byteAt q.params 1) tag n) = true ∧ n.bind trackSlotOf = reference := by
    intro reference
    constructor
    · rintro ⟨hkind, ⟨habsent, rfl⟩ | ⟨hpresent, u, y, rfl, hn, hy⟩⟩
      · exact ⟨none, ⟨hkind, .inl ⟨habsent, rfl⟩⟩, rfl, rfl⟩
      · exact ⟨_, ⟨hkind, .inr ⟨hpresent, rfl⟩⟩, (State.referenceAllowed_some ..).mpr ⟨u, hn, y, hy⟩,
          (congrArg trackSlotOf hn).trans (trackSlotOf_val u)⟩
    · rintro ⟨n, ⟨hkind, ⟨habsent, rfl⟩ | ⟨hpresent, rfl⟩⟩, hallowed, rfl⟩
      · exact ⟨hkind, .inl ⟨habsent, rfl⟩⟩
      · obtain ⟨u, hn, y, hy⟩ := (State.referenceAllowed_some ..).mp hallowed
        exact ⟨hkind, .inr ⟨hpresent, u, y, (congrArg trackSlotOf hn).trans (trackSlotOf_val u), hn, hy⟩⟩
  have hpassesOf : ∀ tp, trackParamsOf q.params = some tp → s.referenceAllowed q.prog tp = true → s.streamInUse tp.stream = false →
      passes := by
    intro tp hparams hreference huse
    rw [TrackParams.stream_of_trackParamsOf hparams] at huse
    obtain ⟨hprogs, htracks⟩ := (State.streamInUse_eq_false _ _).mp huse
    obtain ⟨⟨hshort, hlong, hprintable⟩, ⟨m, hasks, rfl⟩ | ⟨hasks, rfl⟩⟩ := (trackParamsOf_iff tp).mp hparams
    · exact ⟨hshort, hlong, hprintable, hprogs, htracks, .inl ⟨_, (hasSub _).mpr ⟨m, hasks, hreference, rfl⟩⟩⟩
    · exact ⟨hshort, hlong, hprintable, hprogs, htracks, .inr hasks⟩
  refine ⟨fun hnot => ?range, fun hpass hfull => ?full, fun hpass t x htrack hlow hx => ?opens⟩
  case range =>
    cases hparams : trackParamsOf q.params with
    | none => exact htakes.refuses ht (workOpenTrack_of_none (s := s.promised q rest) hp hr hlength hparams)
    | some tp =>
      exact htakes.refuses ht (workOpenTrack_of_error (s := s.promised q rest) hp hr hlength hparams
        (State.openTrackSlot_of_refused fun h => hnot (hpassesOf tp hparams h.1 h.2)))
  case full =>
    obtain ⟨hshort, hlong, hprintable, hprogs, htracks, hkind⟩ := hpass
    have huse : s.streamInUse (byteAt q.params 1) = false := (State.streamInUse_eq_false _ _).mpr ⟨hprogs, htracks⟩
    have hnofree : (∀ u, s.track u ≠ none) → s.freeTrack? = none := s.freeTrack?_eq_none.mpr
    rcases hkind with ⟨reference, hsub⟩ | had
    · obtain ⟨m, hasks, hreference, -⟩ := (hasSub _).mp hsub
      refine htakes.refuses ht (workOpenTrack_of_error (s := s.promised q rest) hp hr hlength
        ((trackParamsOf_iff _).mpr ⟨⟨hshort, hlong, hprintable⟩, .inl ⟨m, hasks, rfl⟩⟩) (State.openTrackSlot_of_full hreference huse ?_))
      rcases hfull with ⟨-, hsubs⟩ | ⟨hbyte, -⟩ | hslots
      · exact .inl ((State.tracksFull_sub ..).mpr hsubs)
      · exact absurd (hasks.1.symm.trans hbyte) (by decide)
      · exact .inr (hnofree hslots)
    · refine htakes.refuses ht (workOpenTrack_of_error (s := s.promised q rest) hp hr hlength
        ((trackParamsOf_iff _).mpr ⟨⟨hshort, hlong, hprintable⟩, .inr ⟨had, rfl⟩⟩) (State.openTrackSlot_of_full rfl huse ?_))
      rcases hfull with ⟨hbyte, -⟩ | ⟨-, hads⟩ | hslots
      · exact absurd (had.1.symm.trans hbyte) (by decide)
      · exact .inl ((State.tracksFull_ad ..).mpr hads)
      · exact .inr (hnofree hslots)
  case opens =>
    obtain ⟨hshort, hlong, hprintable, hprogs, htracks, -⟩ := hpass
    have huse : s.streamInUse (byteAt q.params 1) = false := (State.streamInUse_eq_false _ _).mpr ⟨hprogs, htracks⟩
    have hopens : ∀ tp, trackParamsOf q.params = some tp → s.referenceAllowed q.prog tp = true → s.tracksFull r tp = false →
        exec .openTrack s = .next (((s.replied q rest .done (be 1 t.val)).setTrack t (some (tp.opened q.prog))).setProg q.prog
          (some { r with tracks := r.tracks ++ [t] })) := by
      intro tp hparams hreference hroom
      have hslot := State.openTrackSlot_of_free (s := s.promised q rest) hreference
        ((TrackParams.stream_of_trackParamsOf hparams).symm ▸ huse) hroom (State.freeTrack?_eq_some htrack hlow)
      rw [htakes.answers ht (workOpenTrack_of_ok (s := s.promised q rest) hp hr hlength hparams hslot), State.replyTo_setProg,
        State.replyTo_setTrack, State.replyTo_promised]
    rcases hx with ⟨hroom, reference, hsub, rfl⟩ | ⟨hroom, had, rfl⟩
    · obtain ⟨m, hasks, hreference, rfl⟩ := (hasSub _).mp hsub
      exact hopens _ ((trackParamsOf_iff _).mpr ⟨⟨hshort, hlong, hprintable⟩, .inl ⟨m, hasks, rfl⟩⟩) hreference
        (Bool.eq_false_iff.mpr fun h => Nat.not_le.mpr hroom ((State.tracksFull_sub ..).mp h))
    · exact hopens _ ((trackParamsOf_iff _).mpr ⟨⟨hshort, hlong, hprintable⟩, .inr ⟨had, rfl⟩⟩) rfl
        (Bool.eq_false_iff.mpr fun h => Nat.not_le.mpr hroom ((State.tracksFull_ad ..).mp h))

end Sys2Proof.Machine
end

section
/-! PROOF. Requests: CLOSE-TRACK and LOAD-STYLE. -/

namespace Sys2Proof.Machine

/-! ### CLOSE-TRACK -/

section
variable {s : State} {q : Request} {r : Programme}

theorem workCloseTrack_of_absent (hp : s.prog q.prog = some r) (hr : r.takes) {slot : Byte} (hparams : q.params = [slot])
    (ht : s.trackOf q.prog slot.toNat = none) : workCloseTrack s q = refuse s .absent := by
  rw [workCloseTrack, hr.judged hp (n := 1) (congrArg List.length hparams), hparams, byteAt, List.getD_cons_zero, ht]

theorem workCloseTrack_of_taken (hp : s.prog q.prog = some r) (hr : r.takes) {slot : Byte} (hparams : q.params = [slot]) {t : TrackSlot}
    {x : Track} (ht : s.trackOf q.prog slot.toNat = some (t, x)) : workCloseTrack s q =
      deferred ((s.setTrack t (some x.closing)).setProg q.prog (some { r with deferred := some ⟨.closeTrack t, q.tag, q.stream⟩ })) := by
  have htrack := (State.trackOf_eq_some ht).2.1
  rw [workCloseTrack, hr.judged hp (n := 1) (congrArg List.length hparams), hparams, byteAt, List.getD_cons_zero, ht]
  dsimp only
  rw [State.modTrack_of_some htrack, State.defer, State.modProg_of_some (s := s.setTrack t _) hp]

end

/-- Settles O44. -/
theorem closeTrackBeginsATrackDrain : Obligations.CloseTrackBeginsATrackDrain := by
  unfold Obligations.CloseTrackBeginsATrackDrain
  intro s q rest r slot ht hp hr hparams
  have htakes : Takes .closeTrack 0x07 workCloseTrack := fun _ => rfl
  refine ⟨fun t x hslot hx hprog => ?_, fun hnone => ?_⟩
  · rw [htakes.defers ht (workCloseTrack_of_taken (s := s.promised q rest) hp hr hparams (State.trackOf_of_track hslot hx hprog)),
      Track.closing, Track.modSub]
    obtain ⟨xprog, state, stream, tag, body⟩ := x
    cases body <;> rfl
  · exact htakes.refuses ht (workCloseTrack_of_absent (s := s.promised q rest) hp hr hparams hnone.trackOf)

/-! ### LOAD-STYLE -/

theorem alignmentOf_eq_none : ∀ {b : Byte}, 2 < b.toNat → alignmentOf b = none := by decide
theorem anchorOf_eq_none : ∀ {b : Byte}, 1 < b.toNat → anchorOf b = none := by decide
theorem backgroundOf_eq_none : ∀ {b : Byte}, 2 < b.toNat → backgroundOf b = none := by decide
theorem textSizeOf_eq_none : ∀ {b : Byte}, 2 < b.toNat → textSizeOf b = none := by decide
theorem italicOf_eq_none : ∀ {b : Byte}, 1 < b.toNat → italicOf b = none := by decide

/-- Six bytes that hold a value outside its field's values make no entry (R48). -/
theorem styleOf_of_outOfRange {bs : List Byte} (h : StyleOutOfRange bs 0) : styleOf bs = none := by
  unfold styleOf
  split
  next hal han hbg hsz hit =>
    rcases h with h | h | h | h | h | h
    · cases (alignmentOf_eq_none h).symm.trans hal
    · cases (anchorOf_eq_none h).symm.trans han
    · exact if_neg (Nat.not_le.mpr h)
    · cases (backgroundOf_eq_none h).symm.trans hbg
    · cases (textSizeOf_eq_none h).symm.trans hsz
    · cases (italicOf_eq_none h).symm.trans hit
  next => rfl

theorem styleOf_styleOnLane {e : Style} (hcolour : e.colour ≤ 15) : styleOf (styleOnLane e) = some e := by
  obtain ⟨al, an, colour, bg, sz, it⟩ := e
  have hal : alignmentOf (byteAt (styleOnLane ⟨al, an, colour, bg, sz, it⟩) 0) = some al := by cases al <;> rfl
  have han : anchorOf (byteAt (styleOnLane ⟨al, an, colour, bg, sz, it⟩) 1) = some an := by cases an <;> rfl
  have hbg : backgroundOf (byteAt (styleOnLane ⟨al, an, colour, bg, sz, it⟩) 3) = some bg := by cases bg <;> rfl
  have hsz : textSizeOf (byteAt (styleOnLane ⟨al, an, colour, bg, sz, it⟩) 4) = some sz := by cases sz <;> rfl
  have hit : italicOf (byteAt (styleOnLane ⟨al, an, colour, bg, sz, it⟩) 5) = some it := by cases it <;> rfl
  have hbyte : (byteAt (styleOnLane ⟨al, an, colour, bg, sz, it⟩) 2).toNat = colour := by
    show (BitVec.ofNat 8 colour).toNat = colour
    rw [BitVec.toNat_ofNat]
    exact Nat.mod_eq_of_lt (Nat.lt_of_le_of_lt hcolour (by decide))
  simp only [styleOf, hal, han, hbg, hsz, hit, hbyte]
  exact if_pos hcolour

theorem byteAt_take {bs : List Byte} {n j : Nat} (h : j < n) : byteAt (bs.take n) j = byteAt bs j := by
  rw [byteAt, byteAt, List.getD_eq_getElem?_getD, List.getD_eq_getElem?_getD, List.getElem?_take_of_lt h]

theorem StyleOutOfRange.take {bs : List Byte} (h : StyleOutOfRange bs 0) : StyleOutOfRange (bs.take 6) 0 := by
  simpa only [StyleOutOfRange, Nat.mul_zero, Nat.zero_add, byteAt_take (show 0 < 6 by decide), byteAt_take (show 1 < 6 by decide),
    byteAt_take (show 2 < 6 by decide), byteAt_take (show 3 < 6 by decide), byteAt_take (show 4 < 6 by decide),
    byteAt_take (show 5 < 6 by decide)] using h

theorem StyleOutOfRange.drop {bs : List Byte} {i : Nat} (h : StyleOutOfRange bs (i + 1)) : StyleOutOfRange (bs.drop 6) i := by
  simpa only [StyleOutOfRange, byteAt_drop, Nat.mul_add, Nat.mul_one, Nat.add_comm, Nat.add_left_comm] using h

theorem stylesOf_of_outOfRange {n i : Nat} {bs : List Byte} (hi : i < n) (h : StyleOutOfRange bs i) : stylesOf n bs = none := by
  induction n generalizing bs i with
  | zero => cases hi
  | succ n ih =>
    rw [stylesOf]
    cases i with
    | zero => rw [styleOf_of_outOfRange h.take]
    | succ i =>
      rw [ih (Nat.lt_of_succ_lt_succ hi) h.drop]
      cases styleOf (bs.take 6) <;> rfl

theorem stylesOf_onLane {entries : List Style} (h : ∀ e ∈ entries, e.colour ≤ 15) :
    stylesOf entries.length (entries.flatMap styleOnLane) = some entries := by
  induction entries with
  | nil => rfl
  | cons e entries ih =>
    have hlength : (styleOnLane e).length = 6 := rfl
    rw [List.length_cons, stylesOf, List.flatMap_cons, List.take_left' hlength, List.drop_left' hlength,
      styleOf_styleOnLane (h e List.mem_cons_self), ih fun e' he' => h e' (List.mem_cons_of_mem _ he')]

section
variable {s : State} {q : Request} {r : Programme} {slot count : Byte} {bytes : List Byte} {t : TrackSlot} {x : Track}

/-- A LOAD-STYLE that has passed its other tests sets the table its bytes carry, or is refused with RANGE (R48). -/
def State.loadEntries (s : State) (t : TrackSlot) : Option (List Style) → Worked
  | none => refuse s .range
  | some entries => answerDone (s.modSub t fun b => { b with styles := styleTableOf entries }) []

theorem length_of_loadStyle (hparams : q.params = slot :: count :: bytes) (hlength : bytes.length = 6 * count.toNat) :
    q.params.length = 2 + 6 * (byteAt q.params 1).toNat := by
  rw [hparams, List.length_cons, List.length_cons, hlength]
  show _ = 2 + 6 * count.toNat
  omega

theorem workLoadStyle_of_absent (hp : s.prog q.prog = some r) (hr : r.takes) (hparams : q.params = slot :: count :: bytes)
    (hlength : bytes.length = 6 * count.toNat) (ht : s.trackOf q.prog slot.toNat = none) : workLoadStyle s q = refuse s .absent := by
  rw [workLoadStyle, hr.judged hp (length_of_loadStyle hparams hlength), hparams, byteAt, List.getD_cons_zero, ht]

theorem workLoadStyle_of_found (hp : s.prog q.prog = some r) (hr : r.takes) (hparams : q.params = slot :: count :: bytes)
    (hlength : bytes.length = 6 * count.toNat) (ht : s.trackOf q.prog slot.toNat = some (t, x)) : workLoadStyle s q =
      if x.state = .closing then refuse s .absent
      else if x.sub? = none then refuse s .range
      else if 32 < count.toNat then refuse s .range
      else s.loadEntries t (stylesOf count.toNat bytes) := by
  have hcount : byteAt (slot :: count :: bytes) 1 = count := rfl
  have hbytes : (slot :: count :: bytes).drop 2 = bytes := rfl
  have hslot : byteAt (slot :: count :: bytes) 0 = slot := rfl
  rw [workLoadStyle, hr.judged hp (length_of_loadStyle hparams hlength), hparams, hslot, ht]
  simp only [hcount, hbytes, Option.isNone_iff_eq_none, Config.styleEntries]
  cases stylesOf count.toNat bytes <;> rfl

end

/-- Settles O45. -/
theorem loadStyleReplacesTheTable : Obligations.LoadStyleReplacesTheTable := by
  unfold Obligations.LoadStyleReplacesTheTable
  intro s q rest r slot count bytes ht hp hr hparams hlength
  have htakes : Takes .loadStyle 0x08 workLoadStyle := fun _ => rfl
  refine ⟨fun hnone => htakes.refuses ht (workLoadStyle_of_absent (s := s.promised q rest) hp hr hparams hlength hnone.trackOf), ?_⟩
  intro t x hslot hx hprog
  have hwork := workLoadStyle_of_found (s := s.promised q rest) hp hr hparams hlength (State.trackOf_of_track hslot hx hprog)
  refine ⟨fun hclosing => ?_, fun hopen hrefused => ?_, fun b entries hopen hb hcount hfew hcolours hbytes => ?_⟩
  · rw [if_pos hclosing] at hwork
    exact htakes.refuses ht hwork
  · refine htakes.refuses ht ?_
    rw [hwork, if_neg hopen]
    by_cases hsub : x.sub? = none
    · rw [if_pos hsub]
    by_cases hmany : 32 < count.toNat
    · rw [if_neg hsub, if_pos hmany]
    · rw [if_neg hsub, if_neg hmany]
      rcases hrefused with ⟨a, ha⟩ | h | ⟨i, hi, hrange⟩
      · exact absurd (by rw [Track.sub?, ha]) hsub
      · exact absurd h hmany
      · rw [stylesOf_of_outOfRange hi hrange]
        rfl
  · have hsub : x.sub? ≠ none := by
      rw [Track.sub?_of_body hb]
      exact Option.some_ne_none b
    rw [if_neg hopen, if_neg hsub, if_neg (by omega), hcount, hbytes, stylesOf_onLane hcolours] at hwork
    rw [htakes.answers ht hwork]
    have hempty : entries.isEmpty = true ↔ count = 0 := by
      rw [List.isEmpty_iff_length_eq_zero, ← hcount]
      exact ⟨fun h => BitVec.eq_of_toNat_eq h, fun h => h ▸ rfl⟩
    rw [State.modSub, State.modTrack_of_some (s := s.promised q rest) hx, Track.modSub_of_sub hb, styleTableOf, State.replyTo_setTrack,
      State.replyTo_promised]
    simp only [hempty]

end Sys2Proof.Machine
end

section
/-! PROOF. Requests: the two CONCEAL requests. -/

namespace Sys2Proof.Machine

/-! ### The tests of a CONCEAL request -/

section
variable {s : State} {q : Request} {r : Programme} {t : TrackSlot} {x : Track} {b : SubTrack} {ticks : List Nat}

theorem State.concealTrack_of_absent (ht : s.trackOf q.prog (byteAt q.params 0).toNat = none) :
    s.concealTrack q ticks = .error .absent := by
  rw [State.concealTrack, ht]

theorem State.concealTrack_of_ad (ht : s.trackOf q.prog (byteAt q.params 0).toNat = some (t, x)) {a : AdTrack} (hx : x.body = .ad a) :
    s.concealTrack q ticks = .error .range := by
  have hsub : x.sub? = none := by rw [Track.sub?, hx]
  rw [State.concealTrack, ht]
  dsimp only
  rw [hsub]

theorem State.concealTrack_of_sub (ht : s.trackOf q.prog (byteAt q.params 0).toNat = some (t, x)) (hx : x.body = .sub b) :
    s.concealTrack q ticks = if x.state = .concealing then .error .busy
      else if ∀ tick ∈ ticks, tick ≤ maxTick then .ok (t, b) else .error .range := by
  rw [State.concealTrack, ht]
  dsimp only
  rw [Track.sub?_of_body hx]
  simp only [List.all_eq_true, decide_eq_true_eq]

/-- The refusals of a CONCEAL request whose work starts with the tests of R74. -/
theorem Takes.concealRefused {c : Instr} {name : Byte} {work : State → Request → Worked} {rest : List Request} (hc : Takes c name work)
    (ht : CanTake s q rest name)
    (herror : ∀ code, s.concealTrack q ticks = .error code → work (s.promised q rest) q = refuse (s.promised q rest) code) :
    (s.NamesNoTrack q.prog (byteAt q.params 0) → exec c s = .next (s.replied q rest .absent [])) ∧
    ∀ (t : TrackSlot) (x : Track), (byteAt q.params 0).toNat = t.val → s.track t = some x → x.prog = q.prog →
      (∀ a, x.body = .ad a → exec c s = .next (s.replied q rest .range [])) ∧
      (∀ b, x.body = .sub b → x.state = .concealing → exec c s = .next (s.replied q rest .busy [])) ∧
      (∀ b, x.body = .sub b → x.state ≠ .concealing → (¬ ∀ tick ∈ ticks, tick ≤ maxTick) →
        exec c s = .next (s.replied q rest .range [])) := by
  refine ⟨fun hnone => hc.refuses ht (herror _ (State.concealTrack_of_absent hnone.trackOf)), fun t x hslot hx hprog => ?_⟩
  have hfound := State.trackOf_of_track hslot hx hprog
  refine ⟨fun a ha => hc.refuses ht (herror _ (State.concealTrack_of_ad hfound ha)), fun b hb hbusy => ?_, fun b hb hfree hticks => ?_⟩
  · exact hc.refuses ht (herror _ ((State.concealTrack_of_sub hfound hb).trans (if_pos hbusy)))
  · exact hc.refuses ht (herror _ ((State.concealTrack_of_sub hfound hb).trans ((if_neg hfree).trans (if_neg hticks))))

theorem workConcealSpan_of_error (hp : s.prog q.prog = some r) (hr : r.state = .active) (hd : r.deferred = none)
    (hlength : q.params.length = 17) {code : ResultCode}
    (h : s.concealTrack q [fieldAt q.params 1 8, fieldAt q.params 9 8] = .error code) : workConcealSpan s q = refuse s code := by
  rw [workConcealSpan, State.judged_of_ok (State.judge_of_active hp hr hd) hlength, h]

theorem workConcealSpan_of_ok (hp : s.prog q.prog = some r) (hr : r.state = .active) (hd : r.deferred = none)
    (hlength : q.params.length = 17) (h : s.concealTrack q [fieldAt q.params 1 8, fieldAt q.params 9 8] = .ok (t, b)) :
    workConcealSpan s q =
      s.concealSpanFrom q.prog r.cutLine t b (max (fieldAt q.params 1 8) r.cutLine) (fieldAt q.params 9 8) := by
  rw [workConcealSpan, State.judged_of_ok (State.judge_of_active hp hr hd) hlength, h]

theorem workConcealUntilResume_of_error (hp : s.prog q.prog = some r) (hr : r.state = .active) (hd : r.deferred = none)
    (hlength : q.params.length = 9) {code : ResultCode} (h : s.concealTrack q [fieldAt q.params 1 8] = .error code) :
    workConcealUntilResume s q = refuse s code := by
  rw [workConcealUntilResume, State.judged_of_ok (State.judge_of_active hp hr hd) hlength, h]

theorem workConcealUntilResume_of_ok (hp : s.prog q.prog = some r) (hr : r.state = .active) (hd : r.deferred = none)
    (hlength : q.params.length = 9) (h : s.concealTrack q [fieldAt q.params 1 8] = .ok (t, b)) :
    workConcealUntilResume s q = s.concealFrom q.prog r.cutLine t b (max (fieldAt q.params 1 8) r.cutLine) := by
  rw [workConcealUntilResume, State.judged_of_ok (State.judge_of_active hp hr hd) hlength, h]

/-- An accepted CONCEAL request passes the tests of R74. -/
theorem ConcealAccepted.concealTrack (h : ConcealAccepted s q r t x b) (hticks : ∀ tick ∈ ticks, tick ≤ maxTick) :
    s.concealTrack q ticks = .ok (t, b) := by
  obtain ⟨-, -, -, hslot, hx, hprog, hb, hstate, -⟩ := h
  rw [State.concealTrack_of_sub (State.trackOf_of_track hslot hx hprog) hb, if_neg (by rw [hstate]; decide), if_pos hticks]

/-! ### Clearing and writing a window -/

theorem clearWindow_span (f cutLine e : Nat) (cues : List SubCue) : clearWindow f cutLine (some e) cues =
    (cues.filter fun c => !(c.start < f && f < c.stop && f == cutLine) && !(f ≤ c.start && c.start < e)).map
      (fun c => if c.start < f ∧ f < c.stop then { c with stop := f, trimmed := true } else c) := by
  simp only [clearWindow, SubCue.clearedBy, SubCue.trimTo, SubCue.crosses, Option.any_some, Bool.not_or, Bool.and_eq_true,
    decide_eq_true_eq]

theorem clearWindow_untilResume (f cutLine : Nat) (cues : List SubCue) : clearWindow f cutLine none cues =
    (cues.filter fun c => !(c.start < f && f < c.stop && f == cutLine)).map
      (fun c => if c.start < f ∧ f < c.stop then { c with stop := f, trimmed := true } else c) := by
  simp only [clearWindow, SubCue.clearedBy, SubCue.trimTo, SubCue.crosses, Option.any_none, Bool.and_false, Bool.or_false,
    Bool.and_eq_true, decide_eq_true_eq]

theorem trimmedBy_eq (f cutLine : Nat) (cues : List SubCue) : trimmedBy f cutLine cues =
    (cues.filter fun c => c.start < f && f < c.stop && f != cutLine).length := List.countP_eq_length_filter

/-- The record of a programme that has counted the cues a window trims (R76). -/
def Programme.countTrimmed (r : Programme) (trimmed : Nat) : Programme :=
  { r with counters := { r.counters with cuesTrimmed := min 4294967295 (r.counters.cuesTrimmed + trimmed) } }

variable {p : ProgSlot}

theorem State.clearOwn_eq (hp : s.prog p = some r) (ht : s.track t = some x) (hb : x.body = .sub b) (f cutLine : Nat)
    (stop : Option Nat) : s.clearOwn p t b.cues f cutLine stop =
      (s.setTrack t (some { x with body := .sub { b with cues := clearWindow f cutLine stop b.cues } })).setProg p
        (some (r.countTrimmed (trimmedBy f cutLine b.cues))) := by
  rw [State.clearOwn, State.modSub, State.modTrack_of_some ht, Track.modSub_of_sub hb, State.countIn_of_some (s := s.setTrack t _) hp]
  rfl

theorem State.concealAtOnce_eq (hp : s.prog p = some r) (ht : s.track t = some x) (hb : x.body = .sub b) (w : Window) :
    s.concealAtOnce p t w = answerDone
      ((s.setTrack t (some { x with body := .sub { b with window := some w, outcome := some .nothingToRepair } })).setProg p
        (some { r with notice := { r.notice with
          concealDone := true
          concealTracks := r.notice.concealTracks ||| 1#64 <<< t.val } })) (concealFields w .active) := by
  rw [State.concealAtOnce, State.modSub, State.modTrack_of_some ht, Track.modSub_of_sub hb, State.raiseConcealDone,
    State.modProg_of_some (s := s.setTrack t _) hp]
  rfl

theorem State.concealBegins_eq (ht : s.track t = some x) (hb : x.body = .sub b) (w : Window) :
    s.concealBegins t w = answerDone (s.setTrack t (some { x with
      state := .concealing
      body := .sub { b with window := some w, outcome := none } })) (concealFields w .concealing) := by
  rw [State.concealBegins, State.modTrack_of_some ht, Track.modSub_of_sub hb]

theorem State.clearOwn_concealBegins (hp : s.prog p = some r) (ht : s.track t = some x) (hb : x.body = .sub b) (f cutLine : Nat)
    (stop : Option Nat) (w : Window) : (s.clearOwn p t b.cues f cutLine stop).concealBegins t w = answerDone
      ((s.setTrack t (some { x with
        state := .concealing
        body := .sub { b with window := some w, outcome := none, cues := clearWindow f cutLine stop b.cues } })).setProg p
          (some (r.countTrimmed (trimmedBy f cutLine b.cues)))) (concealFields w .concealing) := by
  rw [State.clearOwn_eq hp ht hb, State.concealBegins_eq (x := { x with body := .sub { b with cues := clearWindow f cutLine stop b.cues } })
    (by simp) rfl, State.setTrack_setProg, State.setTrack_setTrack]

theorem State.clearOwn_concealAtOnce (hp : s.prog p = some r) (ht : s.track t = some x) (hb : x.body = .sub b) (f cutLine : Nat)
    (stop : Option Nat) (w : Window) : (s.clearOwn p t b.cues f cutLine stop).concealAtOnce p t w = answerDone
      ((s.setTrack t (some { x with
        body := .sub { b with window := some w, outcome := some .nothingToRepair, cues := clearWindow f cutLine stop b.cues } })).setProg p
          (some { r.countTrimmed (trimmedBy f cutLine b.cues) with notice := { r.notice with
            concealDone := true
            concealTracks := r.notice.concealTracks ||| 1#64 <<< t.val } })) (concealFields w .active) := by
  rw [State.clearOwn_eq hp ht hb, State.concealAtOnce_eq (r := r.countTrimmed (trimmedBy f cutLine b.cues))
    (x := { x with body := .sub { b with cues := clearWindow f cutLine stop b.cues } }) (by simp) (by simp) rfl,
    State.setTrack_setProg, State.setTrack_setTrack, State.setProg_setProg]
  rfl

end

/-- The reply of a request that has written a track and its programme. -/
theorem State.replyTo_promised_setTrack_setProg (s : State) (q : Request) (rest : List Request) (t : TrackSlot) (x : Option Track)
    (p : ProgSlot) (r : Option Programme) (code : ResultCode) (fields : List Byte) :
    (((s.promised q rest).setTrack t x).setProg p r).replyTo q ⟨code, fields⟩ =
      ((s.replied q rest code fields).setTrack t x).setProg p r := by
  rw [State.replyTo_setProg, State.replyTo_setTrack, State.replyTo_promised]

/-- Settles O46. -/
theorem concealSpanClearsItsWindow : Obligations.ConcealSpanClearsItsWindow := by
  unfold Obligations.ConcealSpanClearsItsWindow
  have hspan : Takes .concealSpan 0x09 workConcealSpan := fun _ => rfl
  have huntil : Takes .concealUntilResume 0x0A workConcealUntilResume := fun _ => rfl
  refine ⟨?refused, ?accepted⟩
  case refused =>
    intro s q rest r c name hname ht hp hr hd refused
    rcases hname with ⟨rfl, rfl, hlength⟩ | ⟨rfl, rfl, hlength⟩
    · obtain ⟨habsent, hfound⟩ := hspan.concealRefused ht fun code h =>
        workConcealSpan_of_error (s := s.promised q rest) hp hr hd hlength h
      refine ⟨habsent, fun t x hslot hx hprog => ?_⟩
      obtain ⟨had, hbusy, hticks⟩ := hfound t x hslot hx hprog
      refine ⟨had, hbusy, fun b hb hfree hlarge => hticks b hb hfree fun hall => ?_⟩
      rcases hlarge with hlarge | ⟨-, hlarge⟩
      · exact Nat.not_le.mpr hlarge (hall _ List.mem_cons_self)
      · exact Nat.not_le.mpr hlarge (hall _ (List.mem_cons_of_mem _ List.mem_cons_self))
    · obtain ⟨habsent, hfound⟩ := huntil.concealRefused ht fun code h =>
        workConcealUntilResume_of_error (s := s.promised q rest) hp hr hd hlength h
      refine ⟨habsent, fun t x hslot hx hprog => ?_⟩
      obtain ⟨had, hbusy, hticks⟩ := hfound t x hslot hx hprog
      refine ⟨had, hbusy, fun b hb hfree hlarge => hticks b hb hfree fun hall => ?_⟩
      rcases hlarge with hlarge | ⟨hother, -⟩
      · exact Nat.not_le.mpr hlarge (hall _ List.mem_cons_self)
      · exact absurd hother (by decide)
  case accepted =>
    intro s q rest r t x b ht hlength haccepted hstop f e w
    have htrack := haccepted.concealTrack (ticks := [fieldAt q.params 1 8, fieldAt q.params 9 8]) (by
      obtain ⟨-, -, -, -, -, -, -, -, hstart⟩ := haccepted
      simp only [List.mem_cons, List.not_mem_nil, or_false, forall_eq_or_imp, forall_eq]
      exact ⟨hstart, hstop⟩)
    obtain ⟨hp, hr, hd, -, hx, -, hb, -, -⟩ := haccepted
    have hwork := workConcealSpan_of_ok (s := s.promised q rest) hp hr hd hlength htrack
    refine ⟨fun hempty => ?_, fun hlt => ⟨clearWindow f r.cutLine (some e) b.cues, ?_, clearWindow_span ..⟩⟩
    · rw [State.concealSpanFrom, if_pos hempty, State.concealAtOnce_eq (s := s.promised q rest) hp hx hb] at hwork
      exact (hspan.answers ht hwork).trans (congrArg _ (State.replyTo_promised_setTrack_setProg ..))
    · rw [State.concealSpanFrom, if_neg (Nat.not_le.mpr hlt), State.clearOwn_concealBegins (s := s.promised q rest) hp hx hb,
        trimmedBy_eq] at hwork
      exact (hspan.answers ht hwork).trans (congrArg _ (State.replyTo_promised_setTrack_setProg ..))

/-- Settles O47. -/
theorem concealUntilResumeLooksForTheNextCue : Obligations.ConcealUntilResumeLooksForTheNextCue := by
  unfold Obligations.ConcealUntilResumeLooksForTheNextCue
  intro s q rest r t x b ht hlength haccepted f cues e counted
  have huntil : Takes .concealUntilResume 0x0A workConcealUntilResume := fun _ => rfl
  have htrack := haccepted.concealTrack (ticks := [fieldAt q.params 1 8]) (by
    obtain ⟨-, -, -, -, -, -, -, -, hstart⟩ := haccepted
    simp only [List.mem_cons, List.not_mem_nil, or_false, forall_eq]
    exact hstart)
  obtain ⟨hp, hr, hd, -, hx, -, hb, -, -⟩ := haccepted
  have hwork := workConcealUntilResume_of_ok (s := s.promised q rest) hp hr hd hlength htrack
  have hcues : clearWindow f r.cutLine none b.cues = cues := clearWindow_untilResume ..
  have he : resumeAt f (clearWindow f r.cutLine none b.cues) = e := by rw [hcues]; rfl
  have hcounted : r.countTrimmed (trimmedBy f r.cutLine b.cues) = counted := by rw [trimmedBy_eq]; rfl
  rw [State.concealFrom] at hwork
  change workConcealUntilResume _ _ = (if resumeAt f (clearWindow f r.cutLine none b.cues) = some f then _ else _) at hwork
  refine ⟨fun hnow => ?_, fun hlater => ?_⟩
  · rw [if_pos (he.trans hnow), State.clearOwn_concealAtOnce (s := s.promised q rest) hp hx hb, he, hnow, hcues,
      hcounted] at hwork
    exact (huntil.answers ht hwork).trans (congrArg _ (State.replyTo_promised_setTrack_setProg ..))
  · rw [if_neg (he ▸ hlater), State.clearOwn_concealBegins (s := s.promised q rest) hp hx hb, he, hcues,
      hcounted] at hwork
    refine (huntil.answers ht hwork).trans ((congrArg _ (State.replyTo_promised_setTrack_setProg ..)).trans ?_)
    rw [concealFields, windowEndBytes]
    cases e <;> rfl

end Sys2Proof.Machine
end

section
/-! PROOF. Requests: FENCE, SET-EGRESS, unknown names and UNIT-RESET. -/

namespace Sys2Proof.Machine

/-! ### FENCE -/

section
variable {s : State} {q : Request} {r : Programme}

theorem State.placeMarker_of_room {p : ProgSlot} {tag : BitVec 16} (h : s.loaderQ.length < 32) :
    s.placeMarker p tag = { s with loaderQ := s.loaderQ ++ [.fence p tag], fenceWaiting := none } :=
  if_pos (decide_eq_true h)

theorem State.placeMarker_of_full {p : ProgSlot} {tag : BitVec 16} (h : 32 ≤ s.loaderQ.length) :
    s.placeMarker p tag = { s with fenceWaiting := some p } :=
  if_neg fun hroom => Nat.not_lt.mpr h (of_decide_eq_true hroom)

theorem workFence_of_taken (hp : s.prog q.prog = some r) (hr : r.takes) (hparams : q.params = []) : workFence s q =
    deferred ((s.setProg q.prog (some { r with deferred := some ⟨.fence, q.tag, q.stream⟩ })).placeMarker q.prog q.tag) := by
  rw [workFence, hr.judged hp (n := 0) (congrArg List.length hparams), State.defer, State.modProg_of_some hp]

end

/-- Settles O48. -/
theorem fenceIsDeferredBehindItsMarker : Obligations.FenceIsDeferredBehindItsMarker := by
  unfold Obligations.FenceIsDeferredBehindItsMarker
  refine ⟨?taken, ?waiting⟩
  case taken =>
    intro s q rest r ht hp hr hparams held
    have hexec := Takes.defers (c := .fence) (fun _ => rfl) ht (workFence_of_taken (s := s.promised q rest) hp hr hparams)
    exact ⟨fun hroom => hexec.trans (congrArg _ (State.placeMarker_of_room (s := held) hroom)),
      fun hfull => hexec.trans (congrArg _ (State.placeMarker_of_full (s := held) hfull))⟩
  case waiting =>
    intro s p r d hwaiting hp hd
    have hheld : (s.prog p).bind (·.deferred) = some d := by rw [hp, Option.bind_some, hd]
    change (_ → execFenceMarkerPlaced s = _) ∧ (_ → execFenceMarkerPlaced s = _)
    rw [execFenceMarkerPlaced, hwaiting]
    refine ⟨fun hroom => ?_, fun hfull => ?_⟩
    · refine (if_pos (decide_eq_true hroom)).trans ?_
      rw [hheld]
      exact congrArg _ (State.placeMarker_of_room hroom)
    · exact if_neg fun hroom => Nat.not_lt.mpr hfull (of_decide_eq_true hroom)

/-! ### SET-EGRESS -/

theorem grantModeOf_of_carriedBy {m : GrantMode} {mode n : Byte} (h : m.carriedBy mode n) : grantModeOf mode n = some m := by
  rcases h with ⟨rfl, rfl⟩ | ⟨rfl, rfl, hlow, hhigh⟩
  · rfl
  · unfold grantModeOf
    rw [if_neg (by decide), if_pos]
    simp only [hlow, hhigh, decide_true, Bool.and_true, beq_self_eq_true]

theorem grantModeOf_of_outOfRange {mode n : Byte} (h : 1 < mode.toNat ∨ (mode = 1 ∧ (n = 0 ∨ 8 < n.toNat))) :
    grantModeOf mode n = none := by
  unfold grantModeOf
  rcases h with hmode | ⟨rfl, hn⟩
  · have hzero : mode ≠ 0 := by rintro rfl; exact absurd hmode (by decide)
    have hone : mode ≠ 1 := by rintro rfl; exact absurd hmode (by decide)
    simp only [beq_eq_false_iff_ne.mpr hzero, beq_eq_false_iff_ne.mpr hone, Bool.false_and, Bool.false_eq_true, if_false]
  · rw [if_neg (by decide), if_neg]
    simp only [beq_self_eq_true, Bool.true_and, Bool.and_eq_true, decide_eq_true_eq]
    rintro ⟨hlow, hhigh⟩
    rcases hn with rfl | hn
    · exact absurd hlow (by decide)
    · exact Nat.not_le.mpr hn hhigh

/-- The grant policy that a byte carries (R146, R163). -/
def policyOf (b : Byte) : Option Policy := if b == 0 then some Policy.fixed else if b == 1 then some Policy.rotate else none

theorem policyOf_eq_none {b : Byte} (h : 1 < b.toNat) : policyOf b = none := by
  have hzero : b ≠ 0 := by rintro rfl; exact absurd h (by decide)
  have hone : b ≠ 1 := by rintro rfl; exact absurd h (by decide)
  rw [policyOf, if_neg (by simpa using hzero), if_neg (by simpa using hone)]

theorem policyOf_carried (policy : Policy) : policyOf (if policy = .fixed then 0 else 1) = some policy := by
  cases policy <;> rfl

theorem egressSettingsOf_of_carried {ps : List Byte} {x : EgressSettings} (hpolicy : policyOf (byteAt ps 0) = some x.policy)
    (hctl : grantModeOf (byteAt ps 1) (byteAt ps 2) = some x.modes.ctl) (hmix : grantModeOf (byteAt ps 3) (byteAt ps 4) = some x.modes.mix)
    (hseg : grantModeOf (byteAt ps 5) (byteAt ps 6) = some x.modes.seg)
    (hthru : grantModeOf (byteAt ps 7) (byteAt ps 8) = some x.modes.thru) : egressSettingsOf ps = some x := by
  unfold policyOf at hpolicy
  unfold egressSettingsOf
  simp only [hpolicy, hctl, hmix, hseg, hthru]

theorem egressSettingsOf_eq_none {ps : List Byte} (h : policyOf (byteAt ps 0) = none ∨ ∃ i ∈ [1, 3, 5, 7],
    grantModeOf (byteAt ps i) (byteAt ps (i + 1)) = none) : egressSettingsOf ps = none := by
  show (match policyOf (byteAt ps 0), grantModeOf (byteAt ps 1) (byteAt ps 2), grantModeOf (byteAt ps 3) (byteAt ps 4),
      grantModeOf (byteAt ps 5) (byteAt ps 6), grantModeOf (byteAt ps 7) (byteAt ps 8) with
    | some p, some c, some m, some g, some t => some (⟨p, ⟨c, m, g, t⟩⟩ : EgressSettings)
    | _, _, _, _, _ => none) = none
  split
  next hpolicy hctl hmix hseg hthru =>
    rcases h with h | ⟨i, hi, h⟩
    · cases hpolicy.symm.trans h
    · simp only [List.mem_cons, List.not_mem_nil, or_false] at hi
      rcases hi with rfl | rfl | rfl | rfl
      · cases hctl.symm.trans h
      · cases hmix.symm.trans h
      · cases hseg.symm.trans h
      · cases hthru.symm.trans h
  next => rfl

theorem workSetEgress_of_length {s : State} {q : Request} (hlength : q.params.length = 9) {x : EgressSettings}
    (hx : egressSettingsOf q.params = some x) :
    workSetEgress s q = answerDone { s with egress := { s.egress with pendingSettings := some x } } [] := by
  rw [workSetEgress, if_neg (not_not_intro hlength), hx]

theorem workSetEgress_of_none {s : State} {q : Request} (hx : egressSettingsOf q.params = none) : workSetEgress s q = refuse s .range := by
  rw [workSetEgress, hx]
  exact ite_self _

/-- A name that is not one of the sixteen (R150). -/
theorem knownName_eq_false {name : Byte} (h : name.toNat = 0 ∨ 16 < name.toNat) : knownName name = false := by
  simp only [knownName, Bool.and_eq_false_iff, decide_eq_false_iff_not]
  omega

/-- Settles O49. -/
theorem setEgressPendsAndUnknownNamesAreRange : Obligations.SetEgressPendsAndUnknownNamesAreRange := by
  unfold Obligations.SetEgressPendsAndUnknownNamesAreRange
  refine ⟨?pends, ?refused, ?unknown⟩
  case pends =>
    intro s q rest x ht hlength hpolicy hctl hmix hseg hthru
    have hx := egressSettingsOf_of_carried (hpolicy.symm ▸ policyOf_carried x.policy) (grantModeOf_of_carriedBy hctl)
      (grantModeOf_of_carriedBy hmix) (grantModeOf_of_carriedBy hseg) (grantModeOf_of_carriedBy hthru)
    rw [takes_setEgress.answers ht (workSetEgress_of_length hlength hx), ← s.replyTo_promised]
    rfl
  case refused =>
    intro s q rest ht hlength hrange
    refine takes_setEgress.refuses ht (workSetEgress_of_none (egressSettingsOf_eq_none ?_))
    exact hrange.imp policyOf_eq_none fun ⟨i, hi, h⟩ => ⟨i, hi, grantModeOf_of_outOfRange h⟩
  case unknown =>
    intro s q rest name ht hname
    exact congrArg _ (ht.refused (fun n => !knownName n) (congrArg not (knownName_eq_false hname)) _ .range rfl)

/-! ### UNIT-RESET -/

/-- Settles O50. -/
theorem unitResetClosesTheIngressAndDiscardsRequests : Obligations.UnitResetClosesTheIngressAndDiscardsRequests := by
  unfold Obligations.UnitResetClosesTheIngressAndDiscardsRequests
  refine ⟨?taken, ?discards, ?closed⟩
  case taken =>
    intro s q rest ht hparams
    refine takes_unitReset.defers ht ?_
    rw [workUnitReset, if_neg (not_not_intro (List.length_eq_zero_iff.mpr hparams)), reserveForUnit]
    show deferred (State.setCtl _ ((s.egress.ctl ++ [_]).dropLast ++ _)) = _
    rw [List.dropLast_concat]
    rfl
  case discards =>
    intro s u q rest hu hq
    change execRequestDiscard s = _
    rw [execRequestDiscard, hu, hq]
    rfl
  case closed =>
    intro s bytes hclosed
    refine ⟨?_, ?_, ?_, ?_⟩
    · change execHeaderAccepted bytes s = _
      rw [execHeaderAccepted, if_pos hclosed]
    · change execHeaderFailure bytes s = _
      rw [execHeaderFailure, if_pos (by simp only [hclosed, Bool.true_or])]
    · change execOverrun bytes s = _
      unfold execOverrun
      split
      · rw [if_pos (by simp only [hclosed, Bool.true_or])]
      all_goals rfl
    · change execTakenWhole bytes s = _
      unfold execTakenWhole
      split
      · rw [if_pos (by simp only [hclosed, Bool.true_or])]
      all_goals rfl

end Sys2Proof.Machine
end

section
/-! PROOF. Completions of deferred requests, notices, and the UNIT-RESET reply. -/

namespace Sys2Proof.Machine

/-! ### Completions -/

section
variable {s : State} {p : ProgSlot} {r : Programme} {d : Deferred} {ctl : List CtlPlace}

theorem State.deferredOf_of_some (hp : s.prog p = some r) (hd : r.deferred = some d) : s.deferredOf p = some (r, d) := by
  rw [State.deferredOf, hp, Option.bind_some, hd, Option.map_some]

theorem NothingInFlight.drained (h : NothingInFlight s p) : s.drained p = true := by
  obtain ⟨hcueload, hnarration, hcuts, haudio⟩ := h
  have hloading : s.loadingOf p = false := by
    unfold State.loadingOf
    split
    next => rfl
    next c hc => exact beq_eq_false_iff_ne.mpr (hcueload c hc)
    next q o hq => exact beq_eq_false_iff_ne.mpr (hnarration q o hq)
  have hcut : s.cutOf p = false := List.any_eq_false.mpr fun c hc => by simpa using hcuts c hc
  have hflight : s.audioInFlight p = false := by
    unfold State.audioInFlight
    cases hw : s.audio with
    | none => rfl
    | some w =>
      rw [Option.any_some, Bool.and_eq_false_iff]
      by_cases hprog : w.copy.prog = p
      · exact .inr (haudio w hw hprog)
      · exact .inl (beq_eq_false_iff_ne.mpr hprog)
  rw [State.drained, hloading, hcut, hflight]
  rfl

theorem State.answerDeferred_of_fills {code : Byte} {fields : List Byte} (hname : d.kind.name = code) (hfills : Fills s.egress.ctl ctl
    (.reserved p) (.filled (replyParcel s.rx.address p d.stream d.tag code .done fields))) :
    s.answerDeferred p d fields = { s with egress := { s.egress with ctl := ctl } } := by
  subst hname
  rw [← hfills.fillPlace]
  rfl

theorem Track.cleared_of_sub {x : Track} {b : SubTrack} (hb : x.body = .sub b) : x.cleared = { x with
    state := if x.state = .concealing then .active else x.state
    body := .sub { b with styles := .default, window := none, outcome := none, cues := [] } } := by
  rw [Track.cleared, hb]

theorem Track.cleared_of_ad {x : Track} {a : AdTrack} (ha : x.body = .ad a) : x.cleared = { x with
    state := if x.state = .concealing then .active else x.state
    body := .ad { a with engine := .idle, gain := 32768, rampStart := 32768, rampTarget := 32768, cues := [] } } := by
  rw [Track.cleared, ha]

/-- The part after a reset programme's completion (R19). -/
theorem exec_resetProgrammeComplete (hp : s.prog p = some r) (hd : r.deferred = some d) (hkind : d.kind = .resetProgramme)
    (hdrained : NothingInFlight s p)
    (hfills : Fills s.egress.ctl ctl (.reserved p) (.filled (replyParcel s.rx.address p d.stream d.tag 0x05 .done []))) :
    exec (.resetProgrammeComplete p) s = .next { ((s.clearTracks r.tracks).dropClips p).setProg p (some r.restarted) with
      egress := { s.egress with ctl := ctl } } := by
  change execResetProgrammeComplete p s = _
  rw [execResetProgrammeComplete, State.deferredOf_of_some hp hd]
  dsimp only
  rw [if_pos ⟨hkind, hdrained.drained⟩, State.clearTracks_eq]
  exact congrArg _ (State.answerDeferred_of_fills (congrArg DeferredKind.name hkind) hfills)

/-- The part after a closed programme's completion (R20). -/
theorem exec_closeProgrammeComplete (hp : s.prog p = some r) (hd : r.deferred = some d) (hkind : d.kind = .closeProgramme)
    (hdrained : NothingInFlight s p) (hseg : ∀ x ∈ s.egress.seg, x.slot ≠ p) (hmix : ∀ x ∈ s.egress.mix, x.slot ≠ p)
    (hfills : Fills s.egress.ctl ctl (.reserved p) (.filled (replyParcel s.rx.address p d.stream d.tag 0x04 .done []))) :
    exec (.closeProgrammeComplete p) s = .next { ((s.freeTracks r.tracks).dropClips p).setProg p none with
      egress := { s.egress with ctl := ctl } } := by
  have houtput : s.outputOf p = false := Bool.or_eq_false_iff.mpr
    ⟨List.any_eq_false.mpr fun x hx => by simpa using hseg x hx, List.any_eq_false.mpr fun x hx => by simpa using hmix x hx⟩
  change execCloseProgrammeComplete p s = _
  rw [execCloseProgrammeComplete, State.deferredOf_of_some hp hd]
  dsimp only
  rw [if_pos ⟨hkind, hdrained.drained, houtput⟩, State.freeTracks_eq]
  exact congrArg _ (State.answerDeferred_of_fills (congrArg DeferredKind.name hkind) hfills)

end

/-- Settles O51. -/
theorem resetAndCloseProgrammeComplete : Obligations.ResetAndCloseProgrammeComplete := by
  unfold Obligations.ResetAndCloseProgrammeComplete
  refine ⟨?reset, ?close⟩
  case reset =>
    intro s p r d ctl hp hd hkind hdrained hfills
    have htrack : ∀ t, State.track { ((s.clearTracks r.tracks).dropClips p).setProg p (some r.restarted) with
        egress := { s.egress with ctl := ctl } } t = if t ∈ r.tracks then (s.track t).map Track.cleared else s.track t :=
      s.clearTracks_track r.tracks
    refine ⟨_, exec_resetProgrammeComplete hp hd hkind hdrained hfills, ?_, fun t ht x b hx hb => ?_, fun t ht x a hx ha => ?_,
      fun t ht => ?_, fun p' hp' => ?_, ?_⟩
    · exact (State.setProg_prog ..).trans (if_pos rfl)
    · rw [htrack, if_pos ht, hx, Option.map_some, Track.cleared_of_sub hb]
    · rw [htrack, if_pos ht, hx, Option.map_some, Track.cleared_of_ad ha]
    · rw [htrack, if_neg ht]
    · refine (State.setProg_prog ..).trans ((if_neg hp').trans ?_)
      rw [State.clearTracks_eq]
      rfl
    · rw [State.clearTracks_eq]
      rfl
  case close =>
    intro s p r d ctl hp hd hkind hdrained hseg hmix hfills
    have htrack : ∀ t, State.track { ((s.freeTracks r.tracks).dropClips p).setProg p none with
        egress := { s.egress with ctl := ctl } } t = if t ∈ r.tracks then none else s.track t := freeTracks_track r.tracks s
    refine ⟨_, exec_closeProgrammeComplete hp hd hkind hdrained hseg hmix hfills, ?_, fun t ht => ?_, fun t ht => ?_, fun p' hp' => ?_, ?_⟩
    · exact (State.setProg_prog ..).trans (if_pos rfl)
    · rw [htrack, if_pos ht]
    · rw [htrack, if_neg ht]
    · refine (State.setProg_prog ..).trans ((if_neg hp').trans ?_)
      rw [State.freeTracks_eq]
      rfl
    · rw [State.freeTracks_eq]
      rfl

/-! ### CLOSE-TRACK -/

section
variable {s : State} {p : ProgSlot} {r : Programme} {d : Deferred} {t : TrackSlot} {ctl : List CtlPlace}

/-- The part after a closed track is FREE and the references to it are absent (R26). -/
def State.trackGone (s : State) (r : Programme) (t : TrackSlot) : State := (s.setTrack t none).dropReferences (r.tracks.erase t) t

theorem State.trackGone_track (u : TrackSlot) : (s.trackGone r t).track u =
    if u ∈ r.tracks.erase t then (if u = t then none else s.track u).map (·.dropReference t) else if u = t then none else s.track u := by
  rw [State.trackGone, State.dropReferences_track, State.setTrack_track]

theorem State.trackGone_eq : s.trackGone r t = { s with tracks := (s.trackGone r t).tracks } := State.dropReferences_eq ..

/-- The part after a closed track's completion (R26, R94). -/
theorem exec_closeTrackComplete (hp : s.prog p = some r) (hd : r.deferred = some d) (hkind : d.kind = .closeTrack t)
    (hcuts : ∀ c ∈ s.cuts, ∀ u ∈ c.subsegs, u.track ≠ t) (haudio : ∀ w, s.audio = some w → t ∉ w.served)
    (hfills : Fills s.egress.ctl ctl (.reserved p) (.filled (replyParcel s.rx.address p d.stream d.tag 0x07 .done []))) :
    exec (.closeTrackComplete p) s = .next { (s.trackGone r t).setProg p (some { r with tracks := r.tracks.erase t, deferred := none }) with
      clips := s.clips.filter fun c =>
        !(decide (c.prog = p) && decide (c.id ∈ s.trackClipIds t) && !(s.trackGone r t).references p c.id)
      egress := { s.egress with ctl := ctl } } := by
  have hcut : s.cutHolds t = false := List.any_eq_false.mpr fun c hc => by
    simpa using fun u hu => hcuts c hc u hu
  have hserves : s.audioServes t = false := by
    unfold State.audioServes
    cases hw : s.audio with
    | none => rfl
    | some w => simpa using haudio w hw
  have hfree : s.freeTrack p r t = { (s.trackGone r t).setProg p (some { r with tracks := r.tracks.erase t, deferred := none }) with
      clips := s.clips.filter fun c =>
        !(decide (c.prog = p) && decide (c.id ∈ s.trackClipIds t) && !(s.trackGone r t).references p c.id) } := by
    have hprog : (s.trackGone r t).prog p = some r := by rw [State.trackGone_eq]; exact hp
    have hclips : (s.trackGone r t).clips = s.clips := by rw [State.trackGone_eq]
    show State.modProg ((s.trackClipIds t).foldl (fun s id => s.freeingTest p id) (s.trackGone r t)) p _ = _
    rw [foldl_freeingTest, hclips]
    show State.setProg _ p (((s.trackGone r t).prog p).map _) = _
    rw [hprog]
    rfl
  change execCloseTrackComplete p s = _
  rw [execCloseTrackComplete, State.deferredOf_of_some hp hd]
  dsimp only
  rw [hkind]
  dsimp only
  rw [hcut, hserves, hfree, Bool.or_self, if_neg Bool.false_ne_true, State.trackGone_eq]
  exact congrArg _ (State.answerDeferred_of_fills (congrArg DeferredKind.name hkind) hfills)

theorem Track.dropReference_of_sub {x : Track} {b : SubTrack} (hb : x.body = .sub b) : x.dropReference t =
    { x with body := .sub { b with reference := if b.reference = some t then none else b.reference } } := by
  rw [Track.dropReference, Track.modSub_of_sub hb]

end

/-- Settles O52. -/
theorem closeTrackCompletesAfterItsDrain : Obligations.CloseTrackCompletesAfterItsDrain := by
  unfold Obligations.CloseTrackCompletesAfterItsDrain
  intro s p r d t ctl hp hd hkind hcuts haudio hfills named
  have hnamed : s.trackClipIds t = named := by
    simp only [named, State.trackClipIds]
    cases s.ad? t <;> rfl
  refine ⟨_, exec_closeTrackComplete hp hd hkind hcuts haudio hfills, ?_, ?_, fun u hu hne x b hx hb => ?_, fun u hne hu => ?_,
    fun p' hp' => ?_, ?_⟩
  · refine (State.trackGone_track t).trans ?_
    rw [if_pos rfl]
    exact ite_self _
  · exact (State.setProg_prog ..).trans (if_pos rfl)
  · refine (State.trackGone_track u).trans ?_
    rw [if_pos ((List.mem_erase_of_ne hne).mpr hu), if_neg hne, hx, Option.map_some, Track.dropReference_of_sub hb]
  · refine (State.trackGone_track u).trans ?_
    rw [if_neg hne]
    split
    next hmem =>
      have hsub := hu.resolve_left fun hnot => hnot (List.mem_of_mem_erase hmem)
      cases hx : s.track u with
      | none => rfl
      | some x =>
        rw [State.sub?, hx] at hsub
        rw [Option.map_some, Track.dropReference, Track.modSub_of_not_sub hsub]
    next => rfl
  · refine (State.setProg_prog ..).trans ((if_neg hp').trans ?_)
    rw [State.trackGone_eq]
    rfl
  · rw [← hnamed, State.trackGone_eq]
    rfl

/-! ### Notices and the UNIT-RESET reply -/

theorem NoticeSlot.kindsNumber_eq_zero_iff (n : NoticeSlot) : n.kindsNumber = 0 ↔ n.isEmpty = true := by
  simp only [NoticeSlot.kindsNumber_eq, NoticeSlot.isEmpty, Nat.add_eq_zero_iff, Nat.mul_eq_zero, OfNat.ofNat_ne_zero, false_or,
    Bool.toNat_eq_zero, Bool.and_eq_true, Bool.not_eq_true']

theorem State.nextNotice?_eq_some {s : State} {p : ProgSlot} {r : Programme} (hp : s.prog p = some r) (hn : r.notice.isEmpty = false)
    (hlow : ∀ p' r', p' < p → s.prog p' = some r' → r'.notice.isEmpty = true) : s.nextNotice? = some p := by
  have hraised : ((s.prog p).any fun r => !r.notice.isEmpty) = true := by rw [hp, Option.any_some, hn]; rfl
  cases hfind : s.nextNotice? with
  | none => exact absurd hraised (List.find?_eq_none.mp hfind p (List.mem_finRange p))
  | some u =>
    obtain ⟨hu, before, behind, hslots, hbefore⟩ := List.find?_eq_some_iff_append.mp hfind
    have hmem : p ∈ before ++ u :: behind := hslots ▸ List.mem_finRange p
    have hordered : (before ++ u :: behind).Pairwise (· < ·) := hslots ▸ List.pairwise_lt_finRange 16
    rcases List.mem_append.mp hmem with hmem | hmem
    · have := hbefore p hmem
      rw [hraised] at this
      cases this
    · rcases List.mem_cons.mp hmem with rfl | hmem
      · rfl
      · have hlt : u < p := List.rel_of_pairwise_cons (List.pairwise_append.mp hordered).2.1 hmem
        obtain ⟨r', hr', hraised'⟩ := (Option.any_eq_true ..).mp hu
        rw [hlow u r' hlt hr'] at hraised'
        cases hraised'

theorem exec_noticeEmission {s : State} {p : ProgSlot} {r : Programme} (hu : s.unitReset = none) (hroom : s.egress.ctl.length + 5 ≤ 16)
    (hp : s.prog p = some r) (hnext : s.nextNotice? = some p) : exec .noticeEmission s = .next
      { s.setProg p (some { r with notice := .empty }) with
        egress := { s.egress with ctl := s.egress.ctl ++ [.filled (noticeParcel s.rx.address p r)] } } := by
  have hfree : ¬ s.ctlFree < 5 := by
    have : s.ctlFree = 16 - s.egress.ctl.length := rfl
    omega
  change execNoticeEmission s = _
  have hmay : ((none : Option UnitReset).isSome || decide (s.ctlFree < Config.noticeRoom)) = false := decide_eq_false hfree
  rw [execNoticeEmission, hu, hnext, hmay, if_neg Bool.false_ne_true]
  dsimp only
  rw [hp]
  dsimp only
  rw [State.modProg_of_some hp]
  rfl

/-- Settles O53. -/
theorem noticesAndTheUnitResetReplyArePlaced : Obligations.NoticesAndTheUnitResetReplyArePlaced := by
  unfold Obligations.NoticesAndTheUnitResetReplyArePlaced
  refine ⟨fun _ _ _ _ => makeParcel_bytes .., ?notice, ?unitReset⟩
  case notice =>
    intro s p r hu hroom hp hraised hlow
    have hn : r.notice.isEmpty = false := Bool.eq_false_iff.mpr fun h => hraised ((NoticeSlot.kindsNumber_eq_zero_iff _).mpr h)
    rw [exec_noticeEmission hu hroom hp (State.nextNotice?_eq_some hp hn fun p' r' hlt hp' =>
      (NoticeSlot.kindsNumber_eq_zero_iff _).mp (hlow p' r' hlt hp')), noticeParcel, noticeBody, NoticeSlot.bytes]
    simp only [List.append_assoc]
    rfl
  case unitReset =>
    intro s u ctl hu hplaced hbuffer hloaderQ hmarkQ haudioQ hrequestQ hloading haudio hfence hcuts hdeferred hthru hseg hmix hfills
    have hnone : (progSlots.all fun p => (s.prog p).all fun r => r.deferred.isNone) = true := by
      simp only [List.all_eq_true, Option.all_eq_true, Option.isNone_iff_eq_none]
      exact fun p _ r hp => hdeferred p r hp
    have hended : s.workEnded = true := by
      simp only [State.workEnded, hbuffer, hloaderQ, hmarkQ, haudioQ, hrequestQ, hloading, haudio, hfence, hcuts, hthru, hseg, hmix, hnone,
        List.isEmpty_nil, Option.isNone_none, Bool.and_self]
    change execUnitResetReply s = _
    rw [execUnitResetReply, hu]
    dsimp only
    rw [hplaced, hended, ← hfills.fillPlace]
    rfl

end Sys2Proof.Machine
end
